-- ==== Sys2Proof/Word.lean ====
section
/-! DEFINITION. The widths of the machine's data (00_scope.md R8, R9, R10). -/

namespace Sys2Proof

/-- A byte: 8 bits (R8). -/
abbrev Byte := BitVec 8

/-- A word: 3 bytes, 24 bits (R8). The six general registers, PC and SW hold one (R20). -/
abbrev Word := BitVec 24

/-- A 48-bit value: register F (R26) and its memory operands (R57). -/
abbrev Word48 := BitVec 48

/-- `trunc_w(n)` of R10: the w-bit pattern whose unsigned value is n mod 2^w. -/
abbrev trunc (w : Nat) (n : Int) : BitVec w := BitVec.ofInt w n

end Sys2Proof
end

