-- ==== Sys2Proof/Syntax/Opcode.lean ====
section
/-! DEFINITION. The closed enumeration of opcodes (30_encoding.md R81, R84). -/

namespace Sys2Proof

/-- The 57 mnemonics of R84, in the source's family order. Each is a distinct constructor: CLEAR and LDX in
particular are two (R81, R241). -/
inductive Opcode where
  | add | sub | mul | div | and | or | addr | subr | mulr | divr | addf | subf | mulf | divf | compf
  | fix | float | norm | sio | ssk | rd | tio | td | svc | wd | lps | sti | j | jeq | jlt | jgt
  | jsub | rsub | lda | ldb | ldl | lds | ldt | ldx | sta | stb | stl | sts | stt | stx | ldch | stch
  | ldf | stf | clear | comp | compr | shiftl | shiftr | rmo | tix | tixr
  deriving DecidableEq, Repr

end Sys2Proof
end

