-- ==== Sys2Proof/Syntax/Target.lean ====
section
/-! DEFINITION. How an instruction of shape M names its effective address, and the operands of each shape
(30_encoding.md R82, R88, R92, R93, R96, R97). The address itself is worked out in Machine/Operands.lean. -/

namespace Sys2Proof

/-- The forms of an effective address that the reference decoder admits for a data opcode (n = i = 1, R97), and the
engine's own form, an address resolved upstream (R80). `x` says that X is added (R92, R93). -/
inductive Target where
  /-- The engine record's effective address, with its `indexed` flag (R80): a hand-built record. It has no binary
  encoding. -/
  | resolved (ea : Int) (indexed : Bool)
  /-- Format 3, b = 0, p = 0: direct (R92). -/
  | direct (x : Bool) (disp : BitVec 12)
  /-- Format 3, b = 0, p = 1: PC-relative (R92). -/
  | pcRelative (x : Bool) (disp : BitVec 12)
  /-- Format 3, b = 1, p = 0: base-relative (R92). -/
  | baseRelative (x : Bool) (disp : BitVec 12)
  /-- Format 4 (R93). -/
  | extended (x : Bool) (addr : BitVec 20)
  deriving DecidableEq, Repr

/-- The address forms of RSUB and of the six format-3/4 placeholders, for which the decoder accepts every n, i
combination (R96, R97). -/
inductive Form where
  /-- n = 1, i = 1. -/
  | simple (t : Target)
  /-- n = 0, i = 1. -/
  | immediate (t : Target)
  /-- n = 1, i = 0. -/
  | indirect (t : Target)
  /-- n = 0, i = 0: the SIC-compatible form, a 15-bit address in bits 14..0 (R96). -/
  | sic (x : Bool) (addr : BitVec 15)
  deriving DecidableEq, Repr

/-- The operands of an instruction, by shape (R82). A register is named by its ordinal as given, any integer
(R21, R85); a shift count is a non-negative integer (R85). -/
inductive Fields where
  /-- Shape N in format 1: no operand. -/
  | none
  /-- Shape M, a data opcode or a jump. -/
  | mem (t : Target)
  /-- RSUB and the format-3/4 placeholders: an effective address is handed in and ignored (R97). -/
  | loose (f : Form)
  /-- Shape RR. -/
  | regReg (r1 r2 : Int)
  /-- Shape R. -/
  | reg (r1 : Int)
  /-- Shape RN. -/
  | regCount (r1 : Int) (n : Nat)
  /-- Shape I: a number that nothing reads. -/
  | number (n : Int)
  deriving DecidableEq, Repr

end Sys2Proof
end

