-- ==== Sys2Proof/Syntax.lean ====
section
/-! DEFINITION. The instruction set: one constructor for each row of opcode_table.json (30_encoding.md R81, R84).
The operands of a constructor are those of the opcode's shape (R82): this is the tagged union of R81, so an operand
list too short for its shape (R83) and a negative shift count (R85) cannot be written here; Machine/Engine.lean
refuses those of hand-built records. -/

namespace Sys2Proof

/-- An instruction: the opcode with the operands its shape gives it (R82). -/
inductive Instr where
  /-- ADD (R120): add a memory word to A. -/
  | add (t : Target)
  /-- SUB (R121): subtract a memory word from A. -/
  | sub (t : Target)
  /-- MUL (R122): multiply A by a memory word. -/
  | mul (t : Target)
  /-- DIV (R123): divide A by a memory word. -/
  | div (t : Target)
  /-- AND (R124): bitwise AND of A with a memory word. -/
  | and (t : Target)
  /-- OR (R125): bitwise OR of A with a memory word. -/
  | or (t : Target)
  /-- ADDR (R141): r2 plus r1 into r2. -/
  | addr (r1 r2 : Int)
  /-- SUBR (R142): r2 minus r1 into r2. -/
  | subr (r1 r2 : Int)
  /-- MULR (R143): r2 times r1 into r2. -/
  | mulr (r1 r2 : Int)
  /-- DIVR (R144): r2 divided by r1 into r2. -/
  | divr (r1 r2 : Int)
  /-- ADDF (R152): add a 48-bit operand to F. -/
  | addf (t : Target)
  /-- SUBF (R153): subtract a 48-bit operand from F. -/
  | subf (t : Target)
  /-- MULF (R154): multiply F by a 48-bit operand. -/
  | mulf (t : Target)
  /-- DIVF (R155): divide F by a 48-bit operand. -/
  | divf (t : Target)
  /-- COMPF (R156): compare F with a 48-bit operand. -/
  | compf (t : Target)
  /-- FIX (R157): copy the low 24 bits of F into A. -/
  | fix
  /-- FLOAT (R158): copy A, sign-extended, into F. -/
  | float
  /-- NORM (R171): placeholder. -/
  | norm
  /-- SIO (R172): placeholder. -/
  | sio
  /-- SSK (R173): placeholder. -/
  | ssk (f : Form)
  /-- RD (R174): placeholder. -/
  | rd (f : Form)
  /-- TIO (R175): placeholder. -/
  | tio
  /-- TD (R176): placeholder. -/
  | td (f : Form)
  /-- SVC (R177): placeholder; the call number is ignored. -/
  | svc (n : Int)
  /-- WD (R178): placeholder. -/
  | wd (f : Form)
  /-- LPS (R179): placeholder. -/
  | lps (f : Form)
  /-- STI (R180): placeholder. -/
  | sti (f : Form)
  /-- J (R191): jump. -/
  | j (t : Target)
  /-- JEQ (R192): jump if CC is equal. -/
  | jeq (t : Target)
  /-- JLT (R193): jump if CC is less. -/
  | jlt (t : Target)
  /-- JGT (R194): jump if CC is greater. -/
  | jgt (t : Target)
  /-- JSUB (R195): jump to subroutine. -/
  | jsub (t : Target)
  /-- RSUB (R196): return from subroutine, or halt. -/
  | rsub (f : Form)
  /-- LDA (R211): load A. -/
  | lda (t : Target)
  /-- LDB (R212): load B. -/
  | ldb (t : Target)
  /-- LDL (R213): load L. -/
  | ldl (t : Target)
  /-- LDS (R214): load S. -/
  | lds (t : Target)
  /-- LDT (R215): load T. -/
  | ldt (t : Target)
  /-- LDX (R216): load X. -/
  | ldx (t : Target)
  /-- STA (R218): store A. -/
  | sta (t : Target)
  /-- STB (R219): store B. -/
  | stb (t : Target)
  /-- STL (R220): store L. -/
  | stl (t : Target)
  /-- STS (R221): store S. -/
  | sts (t : Target)
  /-- STT (R222): store T. -/
  | stt (t : Target)
  /-- STX (R223): store X. -/
  | stx (t : Target)
  /-- LDCH (R224): load a byte into A[7:0]. -/
  | ldch (t : Target)
  /-- STCH (R225): store A[7:0]. -/
  | stch (t : Target)
  /-- LDF (R226): load F. -/
  | ldf (t : Target)
  /-- STF (R227): store F. -/
  | stf (t : Target)
  /-- CLEAR (R240): set a register to zero. -/
  | clear (r1 : Int)
  /-- COMP (R242): compare A with a memory word. -/
  | comp (t : Target)
  /-- COMPR (R243): compare r1 with r2. -/
  | compr (r1 r2 : Int)
  /-- SHIFTL (R251): shift r1 left by n. -/
  | shiftl (r1 : Int) (n : Nat)
  /-- SHIFTR (R252): shift r1 right by n, logically. -/
  | shiftr (r1 : Int) (n : Nat)
  /-- RMO (R253): copy r1 into r2. -/
  | rmo (r1 r2 : Int)
  /-- TIX (R260): increment X and compare it with a memory word. -/
  | tix (t : Target)
  /-- TIXR (R261): increment X and compare it with r1. -/
  | tixr (r1 : Int)
  deriving DecidableEq, Repr

/-- The opcode of an instruction (R80, R84). -/
def Instr.opcode : Instr → Opcode
  | .add _ => .add
  | .sub _ => .sub
  | .mul _ => .mul
  | .div _ => .div
  | .and _ => .and
  | .or _ => .or
  | .addr _ _ => .addr
  | .subr _ _ => .subr
  | .mulr _ _ => .mulr
  | .divr _ _ => .divr
  | .addf _ => .addf
  | .subf _ => .subf
  | .mulf _ => .mulf
  | .divf _ => .divf
  | .compf _ => .compf
  | .fix => .fix
  | .float => .float
  | .norm => .norm
  | .sio => .sio
  | .ssk _ => .ssk
  | .rd _ => .rd
  | .tio => .tio
  | .td _ => .td
  | .svc _ => .svc
  | .wd _ => .wd
  | .lps _ => .lps
  | .sti _ => .sti
  | .j _ => .j
  | .jeq _ => .jeq
  | .jlt _ => .jlt
  | .jgt _ => .jgt
  | .jsub _ => .jsub
  | .rsub _ => .rsub
  | .lda _ => .lda
  | .ldb _ => .ldb
  | .ldl _ => .ldl
  | .lds _ => .lds
  | .ldt _ => .ldt
  | .ldx _ => .ldx
  | .sta _ => .sta
  | .stb _ => .stb
  | .stl _ => .stl
  | .sts _ => .sts
  | .stt _ => .stt
  | .stx _ => .stx
  | .ldch _ => .ldch
  | .stch _ => .stch
  | .ldf _ => .ldf
  | .stf _ => .stf
  | .clear _ => .clear
  | .comp _ => .comp
  | .compr _ _ => .compr
  | .shiftl _ _ => .shiftl
  | .shiftr _ _ => .shiftr
  | .rmo _ _ => .rmo
  | .tix _ => .tix
  | .tixr _ => .tixr

/-- The operands of an instruction, by shape (R82). -/
def Instr.fields : Instr → Fields
  | .add t => .mem t
  | .sub t => .mem t
  | .mul t => .mem t
  | .div t => .mem t
  | .and t => .mem t
  | .or t => .mem t
  | .addr r1 r2 => .regReg r1 r2
  | .subr r1 r2 => .regReg r1 r2
  | .mulr r1 r2 => .regReg r1 r2
  | .divr r1 r2 => .regReg r1 r2
  | .addf t => .mem t
  | .subf t => .mem t
  | .mulf t => .mem t
  | .divf t => .mem t
  | .compf t => .mem t
  | .fix => .none
  | .float => .none
  | .norm => .none
  | .sio => .none
  | .ssk f => .loose f
  | .rd f => .loose f
  | .tio => .none
  | .td f => .loose f
  | .svc n => .number n
  | .wd f => .loose f
  | .lps f => .loose f
  | .sti f => .loose f
  | .j t => .mem t
  | .jeq t => .mem t
  | .jlt t => .mem t
  | .jgt t => .mem t
  | .jsub t => .mem t
  | .rsub f => .loose f
  | .lda t => .mem t
  | .ldb t => .mem t
  | .ldl t => .mem t
  | .lds t => .mem t
  | .ldt t => .mem t
  | .ldx t => .mem t
  | .sta t => .mem t
  | .stb t => .mem t
  | .stl t => .mem t
  | .sts t => .mem t
  | .stt t => .mem t
  | .stx t => .mem t
  | .ldch t => .mem t
  | .stch t => .mem t
  | .ldf t => .mem t
  | .stf t => .mem t
  | .clear r1 => .reg r1
  | .comp t => .mem t
  | .compr r1 r2 => .regReg r1 r2
  | .shiftl r1 n => .regCount r1 n
  | .shiftr r1 n => .regCount r1 n
  | .rmo r1 r2 => .regReg r1 r2
  | .tix t => .mem t
  | .tixr r1 => .reg r1

end Sys2Proof
end

