-- ==== Sys2Proof/WellFormed.lean ====
section
/-! DEFINITION. Which instructions the reference binary encoding can write (30_encoding.md R88, R91 to R97). The
engine runs the others too, from hand-built records: an ordinal outside 0..15 or a resolved effective address has no
encoding but has a meaning. -/

namespace Sys2Proof

/-- A format-2 operand is a nibble: 0..15 (R88, R91). -/
def nibbleOk (n : Int) : Bool := decide (0 ≤ n) && decide (n < 16)

/-- An address form with an encoding: every form but the engine's resolved address (R92, R93). -/
def Target.wellFormed : Target → Bool
  | .resolved _ _ => false
  | .direct _ _ => true
  | .pcRelative _ _ => true
  | .baseRelative _ _ => true
  | .extended _ _ => true

/-- A loose form with an encoding (R96, R97). -/
def Form.wellFormed : Form → Bool
  | .simple t => t.wellFormed
  | .immediate t => t.wellFormed
  | .indirect t => t.wellFormed
  | .sic _ _ => true

/-- Operands with an encoding, by shape (R88, R91). -/
def Fields.wellFormed : Fields → Bool
  | .none => true
  | .mem t => t.wellFormed
  | .loose f => f.wellFormed
  | .regReg r1 r2 => nibbleOk r1 && nibbleOk r2
  | .reg r1 => nibbleOk r1
  | .regCount r1 n => nibbleOk r1 && decide (n < 16)
  | .number n => nibbleOk n

/-- An instruction the reference encoding can write. -/
def Instr.wellFormed (i : Instr) : Bool := i.fields.wellFormed

end Sys2Proof
end

