-- ==== Sys2Proof/Decode.lean ====
section
/-! DEFINITION. The reference decoder, total on any bytes, and the encoder (30_encoding.md R84, R88 to R97). The spec
takes the binary encoding from the textbook and marks it so (D21): notes/assumptions/3.md. -/

namespace Sys2Proof

/-! ### The opcode map (R84, R89) -/

/-- The opcodes in the order of R84. -/
def allOpcodes : List Opcode :=
  [.add, .sub, .mul, .div, .and, .or, .addr, .subr, .mulr, .divr, .addf, .subf,
   .mulf, .divf, .compf, .fix, .float, .norm, .sio, .ssk, .rd, .tio, .td, .svc,
   .wd, .lps, .sti, .j, .jeq, .jlt, .jgt, .jsub, .rsub, .lda, .ldb, .ldl,
   .lds, .ldt, .ldx, .sta, .stb, .stl, .sts, .stt, .stx, .ldch, .stch, .ldf,
   .stf, .clear, .comp, .compr, .shiftl, .shiftr, .rmo, .tix, .tixr]

/-- The opcode byte of R84. -/
def opcodeByte : Opcode → Byte
  | .add => 0x18
  | .sub => 0x1C
  | .mul => 0x20
  | .div => 0x24
  | .and => 0x40
  | .or => 0x44
  | .addr => 0x90
  | .subr => 0x94
  | .mulr => 0x98
  | .divr => 0x9C
  | .addf => 0x58
  | .subf => 0x5C
  | .mulf => 0x60
  | .divf => 0x64
  | .compf => 0x88
  | .fix => 0xC4
  | .float => 0xC0
  | .norm => 0xC8
  | .sio => 0xF0
  | .ssk => 0xEC
  | .rd => 0xD8
  | .tio => 0xF8
  | .td => 0xE0
  | .svc => 0xB0
  | .wd => 0xDC
  | .lps => 0xD0
  | .sti => 0xD4
  | .j => 0x3C
  | .jeq => 0x30
  | .jlt => 0x38
  | .jgt => 0x34
  | .jsub => 0x48
  | .rsub => 0x4C
  | .lda => 0x00
  | .ldb => 0x68
  | .ldl => 0x08
  | .lds => 0x6C
  | .ldt => 0x74
  | .ldx => 0x04
  | .sta => 0x0C
  | .stb => 0x78
  | .stl => 0x14
  | .sts => 0x7C
  | .stt => 0x84
  | .stx => 0x10
  | .ldch => 0x50
  | .stch => 0x54
  | .ldf => 0x70
  | .stf => 0x80
  | .clear => 0xB4
  | .comp => 0x28
  | .compr => 0xA0
  | .shiftl => 0xA4
  | .shiftr => 0xA8
  | .rmo => 0xAC
  | .tix => 0x2C
  | .tixr => 0xB8

/-- A constructor of `Instr`, by the operands its shape reads (R82). -/
inductive Builder where
  | none (i : Instr)
  | mem (mk : Target → Instr)
  | loose (mk : Form → Instr)
  | regReg (mk : Int → Int → Instr)
  | reg (mk : Int → Instr)
  | regCount (mk : Int → Nat → Instr)
  | number (mk : Int → Instr)

/-- The shape of every opcode (R82, R84), with the constructor of `Instr` for it. -/
def builder : Opcode → Builder
  | .add => .mem .add
  | .sub => .mem .sub
  | .mul => .mem .mul
  | .div => .mem .div
  | .and => .mem .and
  | .or => .mem .or
  | .addr => .regReg .addr
  | .subr => .regReg .subr
  | .mulr => .regReg .mulr
  | .divr => .regReg .divr
  | .addf => .mem .addf
  | .subf => .mem .subf
  | .mulf => .mem .mulf
  | .divf => .mem .divf
  | .compf => .mem .compf
  | .fix => .none .fix
  | .float => .none .float
  | .norm => .none .norm
  | .sio => .none .sio
  | .ssk => .loose .ssk
  | .rd => .loose .rd
  | .tio => .none .tio
  | .td => .loose .td
  | .svc => .number .svc
  | .wd => .loose .wd
  | .lps => .loose .lps
  | .sti => .loose .sti
  | .j => .mem .j
  | .jeq => .mem .jeq
  | .jlt => .mem .jlt
  | .jgt => .mem .jgt
  | .jsub => .mem .jsub
  | .rsub => .loose .rsub
  | .lda => .mem .lda
  | .ldb => .mem .ldb
  | .ldl => .mem .ldl
  | .lds => .mem .lds
  | .ldt => .mem .ldt
  | .ldx => .mem .ldx
  | .sta => .mem .sta
  | .stb => .mem .stb
  | .stl => .mem .stl
  | .sts => .mem .sts
  | .stt => .mem .stt
  | .stx => .mem .stx
  | .ldch => .mem .ldch
  | .stch => .mem .stch
  | .ldf => .mem .ldf
  | .stf => .mem .stf
  | .clear => .reg .clear
  | .comp => .mem .comp
  | .compr => .regReg .compr
  | .shiftl => .regCount .shiftl
  | .shiftr => .regCount .shiftr
  | .rmo => .regReg .rmo
  | .tix => .mem .tix
  | .tixr => .reg .tixr

/-- Which bits of the first byte select the opcode: all eight in formats 1 and 2, the high six in format 3/4 (R89). -/
def Builder.mask : Builder → Byte
  | .none _ => 0xFF
  | .mem _ => 0xFC
  | .loose _ => 0xFC
  | .regReg _ => 0xFF
  | .reg _ => 0xFF
  | .regCount _ => 0xFF
  | .number _ => 0xFF

/-- Whether a first byte selects an opcode (R89). -/
def selects (b : Byte) (op : Opcode) : Bool := b &&& (builder op).mask == opcodeByte op

/-- The opcode a first byte selects, if any (R89, R90). -/
def selectOpcode (b : Byte) : Option Opcode := allOpcodes.find? (selects b)

/-! ### Decoding -/

/-- Why bytes decode to no instruction. The names are the model's: notes/assumptions/9.md. -/
inductive DecodeError where
  /-- The first byte selects no opcode (R87, R90 step 5). -/
  | noOpcode
  /-- The bytes end before the instruction does: the loop's FetchFault (R350). -/
  | truncated
  /-- Immediate, indirect or SIC form of an opcode that takes an operand or a target (R86, R97). -/
  | formNotAdmitted
  /-- Format 3 with b = p = 1 (R92), or format 4 with b or p set (R93). -/
  | addressingUndefined
  deriving DecidableEq, Repr

/-- The two nibbles of a format-2 second byte, handed to `mk` (R88, R91). -/
def decodeNibbles (mk : Int → Int → Instr) : List Byte → Except DecodeError (Instr × Nat)
  | [] => .error .truncated
  | b1 :: _ => .ok (mk (b1.extractLsb' 4 4).toNat (b1.extractLsb' 0 4).toNat, 2)

/-- The addressing bits n, i of a first byte around an address form (R96). The case n = i = 0 does not arise: such an
instruction is in the SIC form. -/
def wrapForm (n i : Bool) (t : Target) : Form :=
  match n, i with
  | true, true => .simple t
  | false, true => .immediate t
  | true, false => .indirect t
  | false, false => .simple t

/-- Format 3: bits b, p choose the address (R92). -/
def decodeFormat3 (x b p : Bool) (disp : BitVec 12) : Except DecodeError Target :=
  match b, p with
  | false, false => .ok (.direct x disp)
  | false, true => .ok (.pcRelative x disp)
  | true, false => .ok (.baseRelative x disp)
  | true, true => .error .addressingUndefined

/-- Format 4: only b = p = 0 is defined (R93). -/
def decodeFormat4 (x b p : Bool) (addr : BitVec 20) : Except DecodeError Target :=
  match b, p with
  | false, false => .ok (.extended x addr)
  | false, true => .error .addressingUndefined
  | true, false => .error .addressingUndefined
  | true, true => .error .addressingUndefined

/-- The address form of a format-3/4 instruction and the instruction's length, from its first byte and the bytes
after it (R88, R90, R92, R93, R96). With n = i = 0 the instruction is 3 bytes long and the bits b, p, e belong to
the 15-bit address. -/
def decodeForm (b0 : Byte) : List Byte → Except DecodeError (Form × Nat)
  | [] => .error .truncated
  | b1 :: bs =>
    let n := b0.getLsbD 1
    let i := b0.getLsbD 0
    let x := b1.getLsbD 7
    let b := b1.getLsbD 6
    let p := b1.getLsbD 5
    let e := b1.getLsbD 4
    if !n && !i then
      match bs with
      | [] => .error .truncated
      | b2 :: _ => .ok (.sic x (b1.extractLsb' 0 7 ++ b2), 3)
    else if e then
      match bs with
      | b2 :: b3 :: _ => (decodeFormat4 x b p (b1.extractLsb' 0 4 ++ b2 ++ b3)).map fun t => (wrapForm n i t, 4)
      | [_] => .error .truncated
      | [] => .error .truncated
    else
      match bs with
      | [] => .error .truncated
      | b2 :: _ => (decodeFormat3 x b p (b1.extractLsb' 0 4 ++ b2)).map fun t => (wrapForm n i t, 3)

/-- A data opcode or a jump admits the simple form only (R97). -/
def admitSimple (mk : Target → Instr) : Form × Nat → Except DecodeError (Instr × Nat)
  | (.simple t, len) => .ok (mk t, len)
  | (.immediate _, _) => .error .formNotAdmitted
  | (.indirect _, _) => .error .formNotAdmitted
  | (.sic _ _, _) => .error .formNotAdmitted

/-- The operands of an opcode, by its shape (R90, R91, R94, R97). -/
def decodeOperands (b0 : Byte) (bs : List Byte) : Builder → Except DecodeError (Instr × Nat)
  | .none i => .ok (i, 1)
  | .mem mk => (decodeForm b0 bs).bind (admitSimple mk)
  | .loose mk => (decodeForm b0 bs).map fun r => (mk r.1, r.2)
  | .regReg mk => decodeNibbles mk bs
  | .reg mk => decodeNibbles (fun r1 _ => mk r1) bs
  | .regCount mk => decodeNibbles (fun r1 n => mk r1 n.toNat) bs
  | .number mk => decodeNibbles (fun n _ => mk n) bs

/-- The instruction that a list of bytes begins with, and its length in bytes (R90), or why there is none. Too few
bytes is reported before an inadmissible form, as the reference loop checks them (R350). -/
def decode : List Byte → Except DecodeError (Instr × Nat)
  | [] => .error .truncated
  | b0 :: bs =>
    match selectOpcode b0 with
    | none => .error .noOpcode
    | some op => decodeOperands b0 bs (builder op)

/-! ### Encoding -/

/-- The second byte of a format-3/4 instruction: x, b, p, e and the top four address bits (R88). -/
def flagByte (x b p e : Bool) (hi : BitVec 4) : Byte :=
  BitVec.ofBool x ++ BitVec.ofBool b ++ BitVec.ofBool p ++ BitVec.ofBool e ++ hi

/-- The bytes of a format-3/4 instruction whose first byte, n and i included, is `b0` (R88). An address resolved
upstream has no encoding. -/
def encodeTarget (b0 : Byte) : Target → List Byte
  | .resolved _ _ => []
  | .direct x d => [b0, flagByte x false false false (d.extractLsb' 8 4), d.extractLsb' 0 8]
  | .pcRelative x d => [b0, flagByte x false true false (d.extractLsb' 8 4), d.extractLsb' 0 8]
  | .baseRelative x d => [b0, flagByte x true false false (d.extractLsb' 8 4), d.extractLsb' 0 8]
  | .extended x a =>
    [b0, flagByte x false false true (a.extractLsb' 16 4), a.extractLsb' 8 8, a.extractLsb' 0 8]

/-- The bytes of a format-3/4 instruction in any n, i form (R88, R96). -/
def encodeForm (b0 : Byte) : Form → List Byte
  | .simple t => encodeTarget (b0 ||| 3) t
  | .immediate t => encodeTarget (b0 ||| 1) t
  | .indirect t => encodeTarget (b0 ||| 2) t
  | .sic x a => [b0, BitVec.ofBool x ++ a.extractLsb' 8 7, a.extractLsb' 0 8]

/-- The second byte of a format-2 instruction (R88). -/
def nibbleByte (r1 r2 : Int) : Byte := BitVec.ofInt 4 r1 ++ BitVec.ofInt 4 r2

/-- The bytes of an instruction with opcode byte `b0` (R88, R91). A nibble that the opcode ignores is written 0. -/
def encodeFields (b0 : Byte) : Fields → List Byte
  | .none => [b0]
  | .mem t => encodeTarget (b0 ||| 3) t
  | .loose f => encodeForm b0 f
  | .regReg r1 r2 => [b0, nibbleByte r1 r2]
  | .reg r1 => [b0, nibbleByte r1 0]
  | .regCount r1 n => [b0, nibbleByte r1 n]
  | .number n => [b0, nibbleByte n 0]

/-- The bytes of a well-formed instruction, the opcode byte first (R88, R95). -/
def encode (i : Instr) : List Byte := encodeFields (opcodeByte i.opcode) i.fields

/-! ### The opcode table's words -/

/-- The four bytes, lowest address first, of an instruction whose bits are numbered from the least significant bit of
its first byte; bits from `nbits` up are 0. -/
def tableBytes (nbits w : Nat) : List Byte :=
  [0, 1, 2, 3].map fun k => BitVec.ofNat 8 (w % 2 ^ nbits / 2 ^ (8 * k))

/-- The instruction the decoder reads from such bits, or none where it refuses. -/
def decodeTableWord (nbits w : Nat) : Option Instr :=
  match decode (tableBytes nbits w) with
  | .ok (i, _) => some i
  | .error _ => none

end Sys2Proof
end

