-- ==== Sys2Proof/Config.lean ====
section
/-! DEFINITION. The implementation parameters the spec leaves open (00_scope.md R8), and the one free value. -/

namespace Sys2Proof

/-- `LDCH_UPPER`: what LDCH does to A[23:8] (R8, R224, D6). -/
inductive LdchUpper where
  | preserve | zero
  deriving DecidableEq, Repr

/-- `CMP_MODE`: whether a comparison takes the exact or the wrapped difference (R8, R31, D9). -/
inductive CmpMode where
  | exact | wrapped
  deriving DecidableEq, Repr

/-- The configuration record R8 asks for. It is fixed for a machine instance: State carries it and no instruction
writes it. A statement over all states holds for every configuration. -/
structure Config where
  /-- `MEM_WORDS`: the memory capacity in words (D1). R8 asks for at least 1: `Config.ok`. -/
  memWords : Nat
  /-- `CH_LANE`: which byte of the word LDCH and STCH reach (D5). -/
  chLane : Fin 3
  /-- `LDCH_UPPER` (D6). -/
  ldchUpper : LdchUpper
  /-- `FLOAT_ARITH_SETS_CC`: whether ADDF, SUBF, MULF and DIVF write CC (D7). -/
  floatArithSetsCC : Bool
  /-- `CMP_MODE` (D9). -/
  cmpMode : CmpMode
  deriving DecidableEq, Repr

/-- `MEM_WORDS` is a natural number of at least 1 (R8). -/
def Config.ok (c : Config) : Bool := decide (1 ≤ c.memWords)

/-- FREE VALUE. The text of the n-th trace that R321 leaves unconstrained ("the trace is any string"). It has no
body: nothing can be proved of it. DESIGN CHOICE, safe: notes/assumptions/4.md. -/
opaque freeTrace : Nat → String

end Sys2Proof
end

