-- ==== Sys2Proof/Machine/Defaults.lean ====
section
/-! DEFINITION. The configuration of the machine that `State.reset` is, and what memory reads as where nothing is
listed. -/

namespace Sys2Proof.Machine

/-- The configuration of the reset machine. `memWords` is left open by the spec (R8, D1): 1024 is the model's choice,
the capacity 95_test_vectors.md assumes (DESIGN CHOICE, unsafe: notes/assumptions/1.md). The other four are the
defaults R8 states (notes/assumptions/2.md). -/
def resetConfig : Config where
  memWords := 1024
  chLane := 0
  ldchUpper := .preserve
  floatArithSetsCC := false
  cmpMode := .exact

/-- What a byte of memory reads as where nothing is listed: reset sets every byte to 0x00 (R37, R340, R67). -/
def unlistedByte : Byte := 0

end Sys2Proof.Machine
end

