-- ==== Sys2Proof/Machine/State.lean ====
section
/-! DEFINITION. The machine's state: the registers and memory (10_state.md R20 to R37), the control loop's status
(70_reset_and_hazards.md R351), the result record of the last execute (60_exceptions.md R320), and the reasons a step
can stop. -/

namespace Sys2Proof.Machine

/-- The six general registers, which have an ordinal (R20, R21). -/
inductive GReg where
  | a | x | l | b | s | t
  deriving DecidableEq, Repr

/-- The nine registers by name, a fixed enumeration (R22). -/
inductive RegName where
  | a | x | l | b | s | t | pc | sw | f
  deriving DecidableEq, Repr

/-- A condition code that an instruction writes: 0 equal, 1 less, 2 greater (R27). The pattern 3 is never written. -/
inductive CC where
  | eq | lt | gt
  deriving DecidableEq, Repr

/-- The engine's faults with the value each records (R301 to R305, R309). A fault commits nothing (R306). -/
inductive EngineFault where
  /-- The 29 memory-access opcodes, when `ea mod 3` is not 0 (R301). Safe: the spec's own fault. -/
  | alignmentFault (ea : Int)
  /-- DIV, DIVR and DIVF, when the divisor is 0 (R304). Safe: the spec's own fault. -/
  | divideByZeroFault (op : Opcode)
  /-- The ten ordinal opcodes, when an ordinal is outside 0..5 (R302). Safe: the spec's own fault. -/
  | invalidRegisterOrdinalFault (ordinal : Int)
  /-- No instruction (R303): kept so that the taxonomy is the source's. Safe: it is never raised. -/
  | unknownRegisterFault (name : String)
  /-- The 29 memory-access opcodes, when an aligned access reaches outside memory (R305). Safe: the spec's own
  fault. -/
  | memoryBoundsFault (ea : Int)
  deriving DecidableEq, Repr

/-- The control loop's status (R351). Every status but `running` is terminal (R352). -/
inductive Status where
  | running
  | halted
  | faulted (f : EngineFault)
  | fetchFault (pc : Nat)
  | decodeFault (pc : Nat)
  deriving DecidableEq, Repr

/-- The outcome field of a result record (R300, R320). -/
inductive ResultOutcome where
  | ok
  | halt
  | fault (f : EngineFault)
  deriving DecidableEq, Repr

/-- The trace of an execute, before a formatter renders it as text (R320, R321; `Trace.text`). -/
inductive Trace where
  /-- `<MNEMONIC>: Resultado = <hex6>`, the stored 24-bit result. -/
  | word (op : Opcode) (r : Word)
  /-- `<MNEMONIC>: Resultado = <hex12>`, the stored 48-bit result. -/
  | word48 (op : Opcode) (r : Word48)
  /-- A text R321 does not fix: the free value `freeTrace n`. -/
  | free (n : Nat)
  deriving DecidableEq, Repr

/-- The result record an execute returns (R320). -/
structure Result where
  opcode : Opcode
  operands : List Int
  newCC : Option CC
  outcome : ResultOutcome
  unimpl : Bool
  condMet : Option Bool
  trace : Trace
  deriving DecidableEq, Repr

/-- Memory as the list of the bytes that differ from `unlistedByte`, addresses strictly rising (R35, R50). -/
abbrev Memory := List Host.Cell

/-- The machine. -/
structure State where
  /-- A, ordinal 0 (R20). -/
  regA : Word
  /-- X, ordinal 1 (R20). -/
  regX : Word
  /-- L, ordinal 2 (R20). -/
  regL : Word
  /-- B, ordinal 3 (R20). -/
  regB : Word
  /-- S, ordinal 4 (R20). -/
  regS : Word
  /-- T, ordinal 5 (R20). -/
  regT : Word
  /-- PC (R25). -/
  pc : Word
  /-- SW: CC in bits 1..0, the rest reserved (R27). -/
  sw : Word
  /-- F (R26). -/
  regF : Word48
  /-- M (R35). -/
  mem : Memory
  /-- The implementation parameters (R8). No step writes them. -/
  config : Config
  /-- The control loop's status (R351). -/
  status : Status
  /-- The result record the last execute returned (R320); none before the first (notes/assumptions/5.md). -/
  result : Option Result
  /-- The model's own field: the index of the next unconstrained trace text (notes/assumptions/4.md). -/
  freeTraces : Nat
  deriving DecidableEq, Repr

/-- Why a step or an execute stops without a next state. -/
inductive Fault where
  /-- `exec`: the engine's outcome `Fault(kind, info)` (R300). `execute` returns it in the result record (R320), `step`
  turns it into the status `faulted` too (R350). Safe: the spec's own outcome. -/
  | engine (f : EngineFault)
  /-- `step`, from a status other than `running`: there is no step from it (R351, R352). Safe: a stuck state. -/
  | notRunning (st : Status)
  deriving DecidableEq, Repr

/-- Why the model gives an instruction or a record no meaning. -/
inductive Refusal where
  /-- `exec`, an instruction without a meaning yet; no arm does so now. Safe. -/
  | notModelled (mnemonic : String)
  /-- `execute`, a hand-built record with too few operands for its shape (R83, D13). Safe: the spec's refusal. -/
  | tooFewOperands (op : Opcode)
  /-- `execute`, a hand-built shift record with a negative count (R85, R250). Safe: the spec's refusal. -/
  | negativeShiftCount (op : Opcode) (n : Int)
  deriving DecidableEq, Repr

/-- What an execute or a step answers. -/
abbrev Answer := Host.Outcome State Fault Refusal

/-- The machine right after reset, in a given configuration (R37, R340): every register and byte 0, status
`running`. -/
def State.resetWith (c : Config) : State where
  regA := 0
  regX := 0
  regL := 0
  regB := 0
  regS := 0
  regT := 0
  pc := 0
  sw := 0
  regF := 0
  mem := []
  config := c
  status := .running
  result := none
  freeTraces := 0

/-- The machine right after reset (R37, R340), in the configuration `resetConfig`. -/
def State.reset : State := State.resetWith resetConfig

end Sys2Proof.Machine
end

