-- ==== Sys2Proof/Machine/Flags.lean ====
section
/-! DEFINITION. The condition code: its two derivators, its place in SW, reading and writing it (10_state.md R27 to
R33). -/

namespace Sys2Proof.Machine

/-- The bits a condition code has in SW[1:0] (R27). -/
def CC.code : CC → BitVec 2
  | .eq => 0
  | .lt => 1
  | .gt => 2

/-- `ccSign_Z` of R31: the sign of an integer. -/
def ccSignInt (d : Int) : CC :=
  if d = 0 then .eq else if d < 0 then .lt else .gt

/-- The sign derivator of R30, on a stored w-bit result. -/
def ccSign {w : Nat} (v : BitVec w) : CC := ccSignInt v.toInt

/-- The compare derivator of R31, at any width. -/
def ccCmp {w : Nat} (mode : CmpMode) (a b : BitVec w) : CC :=
  match mode with
  | .exact => ccSignInt (a.toInt - b.toInt)
  | .wrapped => ccSign (trunc w (a.toInt - b.toInt))

/-- The condition code bits of the state, SW[1:0] (R29). -/
def State.ccBits (s : State) : BitVec 2 := s.sw.extractLsb' 0 2

/-- The reserved bits of SW, SW[23:2] (R27). -/
def State.swReserved (s : State) : BitVec 22 := s.sw.extractLsb' 2 22

/-- Writing the condition code keeps SW[23:2] (R11, R28). -/
def State.setCC (c : CC) (s : State) : State := { s with sw := s.swReserved ++ c.code }

/-- Writing the condition code, or not (R32). -/
def State.setOptCC (c : Option CC) (s : State) : State :=
  match c with
  | some c => s.setCC c
  | none => s

end Sys2Proof.Machine
end

