-- ==== Sys2Proof/Machine/Ops.lean ====
section
/-! DEFINITION. The named operations over memory and registers: unchecked bytes and words (00_scope.md R12), the checked
accessors (20_memory.md R53 to R58), registers by ordinal and by name (10_state.md R20 to R24), committing and reporting
an instruction's effect (40_word_arith.md R110, 60_exceptions.md R320), halting, and raising and surfacing a fault
(00_scope.md R13, 70_reset_and_hazards.md R350). -/

namespace Sys2Proof.Machine

/-! ### Bytes of memory -/

/-- The byte at an address. -/
def Memory.read : Memory → Nat → Byte
  | [], _ => unlistedByte
  | (b, v) :: m, a => if b = a then v else Memory.read m a

/-- Memory with one byte written, in canonical form if `m` is: writing `unlistedByte` removes the entry. -/
def Memory.write : Memory → Nat → Byte → Memory
  | [], a, v => if v = unlistedByte then [] else [(a, v)]
  | (b, u) :: m, a, v =>
    if b < a then (b, u) :: Memory.write m a v
    else if b = a then if v = unlistedByte then m else (a, v) :: m
    else if v = unlistedByte then (b, u) :: m else (a, v) :: (b, u) :: m

/-- The canonical form: addresses strictly rising, no entry equal to what an unlisted address reads as. -/
def Memory.wf : Memory → Bool
  | [] => true
  | (a, v) :: m => m.all (fun c => decide (a < c.1)) && decide (v ≠ unlistedByte) && Memory.wf m

/-- Every listed address lies below `n`. -/
def Memory.below (m : Memory) (n : Nat) : Bool := m.all fun c => decide (c.1 < n)

/-! ### Words of memory, big-endian (R12, R51, R52) -/

/-- `MemRead(a, 3)`: the byte at the lowest address is the most significant. -/
def Memory.word (m : Memory) (a : Nat) : Word := m.read a ++ m.read (a + 1) ++ m.read (a + 2)

/-- `MemWrite(a, 3, v)`. -/
def Memory.setWord (m : Memory) (a : Nat) (v : Word) : Memory :=
  ((m.write a (v.extractLsb' 16 8)).write (a + 1) (v.extractLsb' 8 8)).write (a + 2) (v.extractLsb' 0 8)

/-- `MemRead(a, 6)`: two consecutive words, the high one first (R57). -/
def Memory.word48 (m : Memory) (a : Nat) : Word48 := m.word a ++ m.word (a + 3)

/-- `MemWrite(a, 6, v)` (R58). -/
def Memory.setWord48 (m : Memory) (a : Nat) (v : Word48) : Memory :=
  (m.setWord a (v.extractLsb' 24 24)).setWord (a + 3) (v.extractLsb' 0 24)

/-! ### The checked accessors -/

/-- The number of bytes of memory, `3 * MEM_WORDS` (R35). -/
def State.memSize (s : State) : Nat := 3 * s.config.memWords

/-- `WordAddr(ea)` (R53). -/
def wordAddr (ea : Int) : Except EngineFault Int :=
  if ea % 3 ≠ 0 then .error (.alignmentFault ea) else .ok (ea / 3)

/-- The byte address of the first of `1 + extra` words at `ea`, all of which must lie in memory: alignment first, then
bounds (R54 to R58, R61). A 48-bit access has one extra word (R57). -/
def State.access (s : State) (extra : Nat) (ea : Int) : Except EngineFault Nat :=
  match wordAddr ea with
  | .error f => .error f
  | .ok w =>
    if 0 ≤ w ∧ w + extra < s.config.memWords then .ok (3 * w.toNat) else .error (.memoryBoundsFault ea)

/-- `ReadWord(ea)` (R54). -/
def State.readWord (s : State) (ea : Int) : Except EngineFault Word := (s.access 0 ea).map s.mem.word

/-- `WriteWord(ea, v)` (R55). -/
def State.writeWord (s : State) (ea : Int) (v : Word) : Except EngineFault State :=
  (s.access 0 ea).map fun a => { s with mem := s.mem.setWord a v }

/-- `ReadByte(ea)`: byte `CH_LANE` of the word (R56). -/
def State.readByte (s : State) (ea : Int) : Except EngineFault Byte :=
  (s.access 0 ea).map fun a => s.mem.read (a + s.config.chLane.val)

/-- `WriteByte(ea, b)` (R56). -/
def State.writeByte (s : State) (ea : Int) (v : Byte) : Except EngineFault State :=
  (s.access 0 ea).map fun a => { s with mem := s.mem.write (a + s.config.chLane.val) v }

/-- `Read48(ea)` (R57). -/
def State.read48 (s : State) (ea : Int) : Except EngineFault Word48 := (s.access 1 ea).map s.mem.word48

/-- `Write48(ea, v)`: both words are checked before either is written (R58). -/
def State.write48 (s : State) (ea : Int) (v : Word48) : Except EngineFault State :=
  (s.access 1 ea).map fun a => { s with mem := s.mem.setWord48 a v }

/-! ### Registers -/

/-- A general register's value (R20). -/
def State.reg (s : State) : GReg → Word
  | .a => s.regA
  | .x => s.regX
  | .l => s.regL
  | .b => s.regB
  | .s => s.regS
  | .t => s.regT

/-- Writing a general register (R11, R20). -/
def State.setReg (g : GReg) (v : Word) (s : State) : State :=
  match g with
  | .a => { s with regA := v }
  | .x => { s with regX := v }
  | .l => { s with regL := v }
  | .b => { s with regB := v }
  | .s => { s with regS := v }
  | .t => { s with regT := v }

/-- The ordinal of a general register (R20). -/
def GReg.ordinal : GReg → Int
  | .a => 0
  | .x => 1
  | .l => 2
  | .b => 3
  | .s => 4
  | .t => 5

/-- The register an ordinal names; an ordinal outside 0..5 faults and is recorded as given (R21, R302). -/
def ordinalReg (o : Int) : Except EngineFault GReg :=
  if o = 0 then .ok .a
  else if o = 1 then .ok .x
  else if o = 2 then .ok .l
  else if o = 3 then .ok .b
  else if o = 4 then .ok .s
  else if o = 5 then .ok .t
  else .error (.invalidRegisterOrdinalFault o)

/-- The ordinals of a register pair, r1 checked before r2 (R140, R307). -/
def ordinalRegs (r1 r2 : Int) : Except EngineFault (GReg × GReg) :=
  match ordinalReg r1 with
  | .error f => .error f
  | .ok g1 =>
    match ordinalReg r2 with
    | .error f => .error f
    | .ok g2 => .ok (g1, g2)

/-- Writing F (R26). -/
def State.setF (v : Word48) (s : State) : State := { s with regF := v }

/-- Writing PC with an integer: `trunc_24` (R25). -/
def State.setPc (n : Int) (s : State) : State := { s with pc := trunc 24 n }

/-- Reading a register by name, as the integer it holds (R9, R22). -/
def State.readNamed (s : State) : RegName → Int
  | .a => s.regA.toInt
  | .x => s.regX.toInt
  | .l => s.regL.toInt
  | .b => s.regB.toInt
  | .s => s.regS.toInt
  | .t => s.regT.toInt
  | .pc => s.pc.toInt
  | .sw => s.sw.toInt
  | .f => s.regF.toInt

/-- Writing an integer to a register by name truncates it to the register's width (R11, R22, R23). -/
def State.writeNamed (r : RegName) (n : Int) (s : State) : State :=
  match r with
  | .a => { s with regA := trunc 24 n }
  | .x => { s with regX := trunc 24 n }
  | .l => { s with regL := trunc 24 n }
  | .b => { s with regB := trunc 24 n }
  | .s => { s with regS := trunc 24 n }
  | .t => { s with regT := trunc 24 n }
  | .pc => { s with pc := trunc 24 n }
  | .sw => { s with sw := trunc 24 n }
  | .f => { s with regF := trunc 48 n }

/-! ### Ending an execute -/

/-- The ten placeholders (R170), the opcodes whose result record is marked unimplemented (R320). -/
def isPlaceholder : Opcode → Bool
  | .norm | .sio | .ssk | .rd | .tio | .td | .svc | .wd | .lps | .sti => true
  | .add | .sub | .mul | .div | .and | .or | .addr | .subr | .mulr | .divr | .addf | .subf | .mulf | .divf
  | .compf | .fix | .float | .j | .jeq | .jlt | .jgt | .jsub | .rsub | .lda | .ldb | .ldl | .lds | .ldt | .ldx
  | .sta | .stb | .stl | .sts | .stt | .stx | .ldch | .stch | .ldf | .stf | .clear | .comp | .compr | .shiftl
  | .shiftr | .rmo | .tix | .tixr => false

/-- What a handler says of its own effect, from which its result record is made (R320). `trace` is none where R321
leaves the text open. -/
structure Report where
  opcode : Opcode
  operands : List Int := []
  newCC : Option CC := none
  outcome : ResultOutcome := .ok
  condMet : Option Bool := none
  trace : Option Trace := none

/-- The result record of a report (R320); an open trace takes the free value of index `n`. -/
def Report.result (r : Report) (n : Nat) : Result where
  opcode := r.opcode
  operands := r.operands
  newCC := r.newCC
  outcome := r.outcome
  unimpl := isPlaceholder r.opcode
  condMet := r.condMet
  trace := r.trace.getD (.free n)

/-- Returning the result record (R110 phase 6). An open trace uses up one free value. -/
def State.report (r : Report) (s : State) : State :=
  { s with result := some (r.result s.freeTraces),
           freeTraces := if r.trace.isNone then s.freeTraces + 1 else s.freeTraces }

/-- The end of an execute that raises no fault: the condition code the report names is written and the result record
returned (R110 phases 5 and 6). Registers, memory and PC are already those of `s`. -/
def State.finish (r : Report) (s : State) : State := (s.setOptCC r.newCC).report r

/-- Ends an execute that may fault: with the fault if a check failed, by going on otherwise (R13, R110). No state is
carried on the failing side, so a fault commits nothing (R306). -/
def orFault {α : Type} (r : Except EngineFault α) (k : α → Answer) : Answer :=
  match r with
  | .ok v => k v
  | .error f => .fault (.engine f)

/-- The outcome Fault of an execute (R13, R300, R306): no register, byte, CC or PC changes, and the result record names
the opcode, the operands and the fault, with no CC (R309, R320). -/
def State.recordFault (op : Opcode) (operands : List Int) (f : EngineFault) (s : State) : State :=
  s.report { opcode := op, operands := operands, outcome := .fault f }

/-- The outcome Halt (R13, R196, R300): the writes of `s` are committed and the result record says Halt. -/
def State.halt (op : Opcode) (s : State) : State := s.finish { opcode := op, outcome := .halt }

/-! ### What the control loop does with an outcome (R350) -/

/-- After an outcome Ok or Halt: the loop detects the halt and becomes Halted (R350, R352). -/
def State.observe (s : State) : State :=
  match s.result with
  | none => s
  | some r =>
    match r.outcome with
    | .ok => s
    | .halt => { s with status := .halted }
    | .fault f => { s with status := .faulted f }

/-- Taking a fault (R308, R350, R353). `s` is the state before the step: no register or byte changes, PC is at the
faulting instruction, no status or mode is saved, and the loop stops with status Faulted; the result record is that of
the faulted execute (R309, R320). There is no return from it (R310). -/
def State.surfaceFault (op : Opcode) (operands : List Int) (f : EngineFault) (s : State) : State :=
  { s.recordFault op operands f with status := .faulted f }

end Sys2Proof.Machine
end

