-- ==== Sys2Proof/Machine/Operands.lean ====
section
/-! DEFINITION. The operand forms: the target address of each address form (30_encoding.md R92, R93, R96, R97) and the
operand list of an instruction's record (R91, R94). PC holds the address of the byte after the instruction when the
engine runs (10_state.md R25, 70_reset_and_hazards.md R350), so it is the `pcNext` of R92. -/

namespace Sys2Proof.Machine

/-- `TA mod 2^24` (R92, R93). -/
def wrapAddress (n : Int) : Int := n % 2 ^ 24

/-- X is added if bit x is set (R92, R93, R97). -/
def indexOf (x : Bool) (s : State) : Int := if x then s.regX.toNat else 0

/-- The effective address of an address form (R92, R93). An address resolved upstream is taken as given (R85). -/
def targetEa (t : Target) (s : State) : Int :=
  match t with
  | .resolved ea _ => ea
  | .direct x d => wrapAddress (d.toNat + indexOf x s)
  | .pcRelative x d => wrapAddress (s.pc.toNat + d.toInt + indexOf x s)
  | .baseRelative x d => wrapAddress (s.regB.toNat + d.toNat + indexOf x s)
  | .extended x a => wrapAddress (a.toNat + indexOf x s)

/-- The `indexed` flag of the record (R94). -/
def targetIndexed : Target → Bool
  | .resolved _ x => x
  | .direct x _ => x
  | .pcRelative x _ => x
  | .baseRelative x _ => x
  | .extended x _ => x

/-- The effective address handed in with RSUB and the format-3/4 placeholders, which ignore it (R97). -/
def formEa (f : Form) (s : State) : Int :=
  match f with
  | .simple t => targetEa t s
  | .immediate t => targetEa t s
  | .indirect t => targetEa t s
  | .sic x a => wrapAddress (a.toNat + indexOf x s)

/-- The `indexed` flag of such a record (R94). -/
def formIndexed : Form → Bool
  | .simple t => targetIndexed t
  | .immediate t => targetIndexed t
  | .indirect t => targetIndexed t
  | .sic x _ => x

/-- The operand list of the record, by shape (R91, R94). -/
def fieldOperands : Fields → List Int
  | .none => []
  | .mem _ => []
  | .loose _ => []
  | .regReg r1 r2 => [r1, r2]
  | .reg r1 => [r1]
  | .regCount r1 n => [r1, n]
  | .number n => [n]

/-- The record's effective address: 0 for formats 1 and 2 (R91, R94). -/
def fieldEa (f : Fields) (s : State) : Int :=
  match f with
  | .none => 0
  | .mem t => targetEa t s
  | .loose f => formEa f s
  | .regReg _ _ => 0
  | .reg _ => 0
  | .regCount _ _ => 0
  | .number _ => 0

/-- The record's `indexed` flag: false for formats 1 and 2 (R91, R94). -/
def fieldIndexed : Fields → Bool
  | .none => false
  | .mem t => targetIndexed t
  | .loose f => formIndexed f
  | .regReg _ _ => false
  | .reg _ => false
  | .regCount _ _ => false
  | .number _ => false

end Sys2Proof.Machine
end

