-- ==== Sys2Proof/Machine/ClearCompare.lean ====
section
/-! DEFINITION. CLEAR and the comparisons COMP and COMPR (46_clear_compare.md R240 to R243). -/

namespace Sys2Proof.Machine

/-- CLEAR: no CC (R240). -/
def execClear (r1 : Int) (s : State) : Answer :=
  orFault (ordinalReg r1) fun g => .next ((s.setReg g 0).finish { opcode := .clear, operands := [r1] })

/-- COMP: A is not written (R242). -/
def execComp (t : Target) (s : State) : Answer :=
  orFault (s.readWord (targetEa t s)) fun m =>
    .next (s.finish { opcode := .comp, newCC := some (ccCmp s.config.cmpMode s.regA m) })

/-- COMPR: r1 against r2, the opposite order of SUBR (R243). -/
def execCompr (r1 r2 : Int) (s : State) : Answer :=
  orFault (ordinalRegs r1 r2) fun g =>
    .next (s.finish
      { opcode := .compr, operands := [r1, r2], newCC := some (ccCmp s.config.cmpMode (s.reg g.1) (s.reg g.2)) })

end Sys2Proof.Machine
end

