-- ==== Sys2Proof/Machine/ControlFlow.lean ====
section
/-! DEFINITION. Control flow: J, JEQ, JLT, JGT, JSUB, RSUB (44_control_flow.md R190 to R197). A jump target is not a
memory access: it is neither aligned nor bounds-checked (R190). PC is already the address of the next instruction
(R25). -/

namespace Sys2Proof.Machine

/-- A jump on a condition code; the result record says whether it was taken (R192 to R194, R320). -/
def jumpIf (op : Opcode) (c : CC) (t : Target) (s : State) : Answer :=
  if s.ccBits = c.code then .next ((s.setPc (targetEa t s)).finish { opcode := op, condMet := some true })
  else .next (s.finish { opcode := op, condMet := some false })

/-- J (R191). -/
def execJ (t : Target) (s : State) : Answer := .next ((s.setPc (targetEa t s)).finish { opcode := .j })

/-- JEQ (R192). -/
def execJeq (t : Target) (s : State) : Answer := jumpIf .jeq .eq t s

/-- JLT (R193). -/
def execJlt (t : Target) (s : State) : Answer := jumpIf .jlt .lt t s

/-- JGT (R194). -/
def execJgt (t : Target) (s : State) : Answer := jumpIf .jgt .gt t s

/-- JSUB: L takes the PC the engine sees, and both writes commit together (R195). -/
def execJsub (t : Target) (s : State) : Answer :=
  .next (((s.setReg .l s.pc).setPc (targetEa t s)).finish { opcode := .jsub })

/-- RSUB: with L = 0, PC becomes 0 and the outcome is Halt; otherwise PC becomes L (R196). -/
def execRsub (_f : Form) (s : State) : Answer :=
  if s.regL.toNat = 0 then .next ((s.setPc 0).halt .rsub)
  else .next ((s.setPc s.regL.toNat).finish { opcode := .rsub })

end Sys2Proof.Machine
end

