-- ==== Sys2Proof/Machine/Alu.lean ====
section
/-! DEFINITION. The integer laws of the ALU, at any width: 24 for words, 48 for F (40_word_arith.md R111 to R117), and
the plain shifts (47_shift_move.md R250 to R252). Operands are read as two's-complement integers, the result is exact
and then truncated to the width. -/

namespace Sys2Proof.Machine

variable {w : Nat}

/-- `add_w` (R112). -/
def addW (a b : BitVec w) : BitVec w := trunc w (a.toInt + b.toInt)

/-- `sub_w` (R112). -/
def subW (a b : BitVec w) : BitVec w := trunc w (a.toInt - b.toInt)

/-- `mul_w`: the low w bits of the exact product (R113). -/
def mulW (a b : BitVec w) : BitVec w := trunc w (a.toInt * b.toInt)

/-- `div_w`: the quotient truncated toward zero (R10, R114, D8). -/
def divW (a b : BitVec w) : BitVec w := trunc w (Int.tdiv a.toInt b.toInt)

/-- Division with its zero-divisor test (R114); the fault records the opcode (R304, R309). -/
def divide (op : Opcode) (a b : BitVec w) : Except EngineFault (BitVec w) :=
  if b.toInt = 0 then .error (.divideByZeroFault op) else .ok (divW a b)

/-- `and_w` (R115). -/
def andW (a b : BitVec w) : BitVec w := a &&& b

/-- `or_w` (R115). -/
def orW (a b : BitVec w) : BitVec w := a ||| b

/-- SHIFTL's shift: zeros enter at bit 0; a count of 24 or more gives 0 (R250, R251). -/
def shiftLeftW (a : BitVec w) (n : Nat) : BitVec w := trunc w ((a.toNat * 2 ^ n : Nat) : Int)

/-- SHIFTR's logical shift: zeros enter at the top; a count of 24 or more gives 0 (R250, R252). -/
def shiftRightW (a : BitVec w) (n : Nat) : BitVec w := trunc w ((a.toNat / 2 ^ n : Nat) : Int)

end Sys2Proof.Machine
end

