-- ==== Sys2Proof/Machine/Extended.lean ====
section
/-! DEFINITION. The extended register: ADDF, SUBF, MULF, DIVF, COMPF, FIX, FLOAT (42_extended.md R150 to R158). F holds
a 48-bit two's-complement integer (R26). -/

namespace Sys2Proof.Machine

/-- A result into F, its sign into CC only if `FLOAT_ARITH_SETS_CC` (R32, R151), and the trace of R321. -/
def intoF (op : Opcode) (r : Word48) (s : State) : Answer :=
  .next ((s.setF r).finish
    { opcode := op, newCC := if s.config.floatArithSetsCC then some (ccSign r) else none,
      trace := some (.word48 op r) })

/-- ADDF (R152). -/
def execAddf (t : Target) (s : State) : Answer :=
  orFault (s.read48 (targetEa t s)) fun m => intoF .addf (addW s.regF m) s

/-- SUBF (R153). -/
def execSubf (t : Target) (s : State) : Answer :=
  orFault (s.read48 (targetEa t s)) fun m => intoF .subf (subW s.regF m) s

/-- MULF (R154). -/
def execMulf (t : Target) (s : State) : Answer :=
  orFault (s.read48 (targetEa t s)) fun m => intoF .mulf (mulW s.regF m) s

/-- DIVF: the zero test is of all 48 bits, after the read (R155, R307). -/
def execDivf (t : Target) (s : State) : Answer :=
  orFault (s.read48 (targetEa t s)) fun m => orFault (divide .divf s.regF m) fun r => intoF .divf r s

/-- COMPF: F is not written (R156). -/
def execCompf (t : Target) (s : State) : Answer :=
  orFault (s.read48 (targetEa t s)) fun m =>
    .next (s.finish { opcode := .compf, newCC := some (ccCmp s.config.cmpMode s.regF m) })

/-- FIX: `A <- trunc_24(sval(F))`, no CC (R157). -/
def execFix (s : State) : Answer := .next ((s.setReg .a (trunc 24 s.regF.toInt)).finish { opcode := .fix })

/-- FLOAT: `F <- trunc_48(sval(A))`, no CC (R158). -/
def execFloat (s : State) : Answer := .next ((s.setF (trunc 48 s.regA.toInt)).finish { opcode := .float })

end Sys2Proof.Machine
end

