-- ==== Sys2Proof/Machine/IndexTest.lean ====
section
/-! DEFINITION. Indexed test and compare: TIX, TIXR (48_index_test.md R260, R261). Every check precedes the increment. -/

namespace Sys2Proof.Machine

/-- X plus 1, wrapping (R260, R261). -/
def nextX (s : State) : Word := addW s.regX 1

/-- TIX: the new X against a memory word (R260). -/
def execTix (t : Target) (s : State) : Answer :=
  orFault (s.readWord (targetEa t s)) fun m =>
    .next ((s.setReg .x (nextX s)).finish { opcode := .tix, newCC := some (ccCmp s.config.cmpMode (nextX s) m) })

/-- TIXR: the new X against x[r1], read after the increment, so that X is compared with itself (R261, D35). -/
def execTixr (r1 : Int) (s : State) : Answer :=
  orFault (ordinalReg r1) fun g =>
    .next ((s.setReg .x (nextX s)).finish
      { opcode := .tixr, operands := [r1],
        newCC := some (ccCmp s.config.cmpMode (nextX s) ((s.setReg .x (nextX s)).reg g)) })

end Sys2Proof.Machine
end

