-- ==== Sys2Proof/Machine/LoadStore.lean ====
section
/-! DEFINITION. Loads and stores (45_load_store.md R210 to R227). None of them writes CC. -/

namespace Sys2Proof.Machine

/-- A word load (R210). -/
def loadWord (op : Opcode) (g : GReg) (t : Target) (s : State) : Answer :=
  orFault (s.readWord (targetEa t s)) fun m => .next ((s.setReg g m).finish { opcode := op })

/-- A word store (R217). -/
def storeWord (op : Opcode) (g : GReg) (t : Target) (s : State) : Answer :=
  orFault (s.writeWord (targetEa t s) (s.reg g)) fun s' => .next (s'.finish { opcode := op })

/-- LDA (R211). -/
def execLda (t : Target) (s : State) : Answer := loadWord .lda .a t s

/-- LDB (R212). -/
def execLdb (t : Target) (s : State) : Answer := loadWord .ldb .b t s

/-- LDL (R213). -/
def execLdl (t : Target) (s : State) : Answer := loadWord .ldl .l t s

/-- LDS (R214). -/
def execLds (t : Target) (s : State) : Answer := loadWord .lds .s t s

/-- LDT (R215). -/
def execLdt (t : Target) (s : State) : Answer := loadWord .ldt .t t s

/-- LDX (R216). -/
def execLdx (t : Target) (s : State) : Answer := loadWord .ldx .x t s

/-- STA (R218). -/
def execSta (t : Target) (s : State) : Answer := storeWord .sta .a t s

/-- STB (R219). -/
def execStb (t : Target) (s : State) : Answer := storeWord .stb .b t s

/-- STL (R220). -/
def execStl (t : Target) (s : State) : Answer := storeWord .stl .l t s

/-- STS (R221). -/
def execSts (t : Target) (s : State) : Answer := storeWord .sts .s t s

/-- STT (R222). -/
def execStt (t : Target) (s : State) : Answer := storeWord .stt .t t s

/-- STX (R223). -/
def execStx (t : Target) (s : State) : Answer := storeWord .stx .x t s

/-- What LDCH leaves in A: the byte in A[7:0], and A[23:8] kept or zeroed (R224, D6). -/
def loadChar (u : LdchUpper) (a : Word) (b : Byte) : Word :=
  match u with
  | .preserve => a.extractLsb' 8 16 ++ b
  | .zero => b.setWidth 24

/-- LDCH (R224). -/
def execLdch (t : Target) (s : State) : Answer :=
  orFault (s.readByte (targetEa t s)) fun b =>
    .next ((s.setReg .a (loadChar s.config.ldchUpper s.regA b)).finish { opcode := .ldch })

/-- STCH: A[7:0] into one byte (R225). -/
def execStch (t : Target) (s : State) : Answer :=
  orFault (s.writeByte (targetEa t s) (s.regA.extractLsb' 0 8)) fun s' => .next (s'.finish { opcode := .stch })

/-- LDF (R226). -/
def execLdf (t : Target) (s : State) : Answer :=
  orFault (s.read48 (targetEa t s)) fun m => .next ((s.setF m).finish { opcode := .ldf })

/-- STF (R227). -/
def execStf (t : Target) (s : State) : Answer :=
  orFault (s.write48 (targetEa t s) s.regF) fun s' => .next (s'.finish { opcode := .stf })

end Sys2Proof.Machine
end

