-- ==== Sys2Proof/Machine/Placeholders.lean ====
section
/-! DEFINITION. The unimplemented placeholders: NORM, SIO, SSK, RD, TIO, TD, SVC, WD, LPS, STI (43_placeholders.md R170
to R180). The spec's meaning of each is a no-op with outcome Ok: no register, CC, PC or memory byte is written or
checked, whatever the operands hold. -/

namespace Sys2Proof.Machine

/-- `skip` (R170): only the result record, marked unimplemented, is returned. -/
def skip (op : Opcode) (operands : List Int) (s : State) : Answer :=
  .next (s.finish { opcode := op, operands := operands })

/-- NORM (R171). -/
def execNorm (s : State) : Answer := skip .norm [] s

/-- SIO (R172). -/
def execSio (s : State) : Answer := skip .sio [] s

/-- SSK: the effective address is not checked (R173). -/
def execSsk (_f : Form) (s : State) : Answer := skip .ssk [] s

/-- RD: A is not written, memory is not read (R174). -/
def execRd (_f : Form) (s : State) : Answer := skip .rd [] s

/-- TIO: CC is not written (R175). -/
def execTio (s : State) : Answer := skip .tio [] s

/-- TD: CC is not written (R176). -/
def execTd (_f : Form) (s : State) : Answer := skip .td [] s

/-- SVC: no trap; the call number is in the record and is ignored (R177, R312). -/
def execSvc (n : Int) (s : State) : Answer := skip .svc [n] s

/-- WD (R178). -/
def execWd (_f : Form) (s : State) : Answer := skip .wd [] s

/-- LPS: no register is loaded (R179, R310). -/
def execLps (_f : Form) (s : State) : Answer := skip .lps [] s

/-- STI: no timer exists (R180, R316). -/
def execSti (_f : Form) (s : State) : Answer := skip .sti [] s

end Sys2Proof.Machine
end

