-- ==== Sys2Proof/Machine/RegisterArith.lean ====
section
/-! DEFINITION. Register-register arithmetic: ADDR, SUBR, MULR, DIVR (41_register_arith.md R140 to R144). The result
goes to x[r2]; both operands are read before it is written (R116). -/

namespace Sys2Proof.Machine

/-- A result into x[r2], its sign into CC, and the trace of R321. -/
def intoReg (op : Opcode) (r1 r2 : Int) (g2 : GReg) (r : Word) (s : State) : Answer :=
  .next ((s.setReg g2 r).finish
    { opcode := op, operands := [r1, r2], newCC := some (ccSign r), trace := some (.word op r) })

/-- ADDR (R141). -/
def execAddr (r1 r2 : Int) (s : State) : Answer :=
  orFault (ordinalRegs r1 r2) fun g => intoReg .addr r1 r2 g.2 (addW (s.reg g.2) (s.reg g.1)) s

/-- SUBR: r2 minus r1 (R142). -/
def execSubr (r1 r2 : Int) (s : State) : Answer :=
  orFault (ordinalRegs r1 r2) fun g => intoReg .subr r1 r2 g.2 (subW (s.reg g.2) (s.reg g.1)) s

/-- MULR (R143). -/
def execMulr (r1 r2 : Int) (s : State) : Answer :=
  orFault (ordinalRegs r1 r2) fun g => intoReg .mulr r1 r2 g.2 (mulW (s.reg g.2) (s.reg g.1)) s

/-- DIVR: r2 divided by r1; the zero test is of r1's value (R144, D28). -/
def execDivr (r1 r2 : Int) (s : State) : Answer :=
  orFault (ordinalRegs r1 r2) fun g =>
    orFault (divide .divr (s.reg g.2) (s.reg g.1)) fun r => intoReg .divr r1 r2 g.2 r s

end Sys2Proof.Machine
end

