-- ==== Sys2Proof/Machine/ShiftMove.lean ====
section
/-! DEFINITION. The shifts and the register move: SHIFTL, SHIFTR, RMO (47_shift_move.md R250 to R253). -/

namespace Sys2Proof.Machine

/-- A shift result into x[r1], its sign into CC (R32). R321 fixes no trace for the shifts. -/
def intoShifted (op : Opcode) (r1 : Int) (n : Nat) (g : GReg) (r : Word) (s : State) : Answer :=
  .next ((s.setReg g r).finish { opcode := op, operands := [r1, n], newCC := some (ccSign r) })

/-- SHIFTL (R251). -/
def execShiftl (r1 : Int) (n : Nat) (s : State) : Answer :=
  orFault (ordinalReg r1) fun g => intoShifted .shiftl r1 n g (shiftLeftW (s.reg g) n) s

/-- SHIFTR (R252). -/
def execShiftr (r1 : Int) (n : Nat) (s : State) : Answer :=
  orFault (ordinalReg r1) fun g => intoShifted .shiftr r1 n g (shiftRightW (s.reg g) n) s

/-- RMO: r1 into r2, no CC (R253, D11). -/
def execRmo (r1 r2 : Int) (s : State) : Answer :=
  orFault (ordinalRegs r1 r2) fun g =>
    .next ((s.setReg g.2 (s.reg g.1)).finish { opcode := .rmo, operands := [r1, r2] })

end Sys2Proof.Machine
end

