-- ==== Sys2Proof/Machine/WordArith.lean ====
section
/-! DEFINITION. Word arithmetic and logic with a memory operand: ADD, SUB, MUL, DIV, AND, OR (40_word_arith.md R120 to
R125). -/

namespace Sys2Proof.Machine

/-- A result into A, its sign into CC, and the trace of R321. -/
def accumulate (op : Opcode) (r : Word) (s : State) : Answer :=
  .next ((s.setReg .a r).finish { opcode := op, newCC := some (ccSign r), trace := some (.word op r) })

/-- ADD (R120). -/
def execAdd (t : Target) (s : State) : Answer :=
  orFault (s.readWord (targetEa t s)) fun m => accumulate .add (addW s.regA m) s

/-- SUB: A minus the operand (R121). -/
def execSub (t : Target) (s : State) : Answer :=
  orFault (s.readWord (targetEa t s)) fun m => accumulate .sub (subW s.regA m) s

/-- MUL (R122). -/
def execMul (t : Target) (s : State) : Answer :=
  orFault (s.readWord (targetEa t s)) fun m => accumulate .mul (mulW s.regA m) s

/-- DIV: the zero test comes after the read (R123, R307). -/
def execDiv (t : Target) (s : State) : Answer :=
  orFault (s.readWord (targetEa t s)) fun m => orFault (divide .div s.regA m) fun r => accumulate .div r s

/-- AND (R124). -/
def execAnd (t : Target) (s : State) : Answer :=
  orFault (s.readWord (targetEa t s)) fun m => accumulate .and (andW s.regA m) s

/-- OR (R125). -/
def execOr (t : Target) (s : State) : Answer :=
  orFault (s.readWord (targetEa t s)) fun m => accumulate .or (orW s.regA m) s

end Sys2Proof.Machine
end

