-- ==== Sys2Proof/Machine/Dispatch.lean ====
section
/-! DEFINITION. One execute of an instruction by the engine (40_word_arith.md R110, 60_exceptions.md R300): a next state
for the outcomes Ok and Halt, a fault for the outcome Fault. -/

namespace Sys2Proof.Machine

def exec (i : Instr) (s : State) : Host.Outcome State Fault Refusal :=
  match i with
  | .add t => Sys2Proof.Machine.execAdd t s
  | .sub t => Sys2Proof.Machine.execSub t s
  | .mul t => Sys2Proof.Machine.execMul t s
  | .div t => Sys2Proof.Machine.execDiv t s
  | .and t => Sys2Proof.Machine.execAnd t s
  | .or t => Sys2Proof.Machine.execOr t s
  | .addr r1 r2 => Sys2Proof.Machine.execAddr r1 r2 s
  | .subr r1 r2 => Sys2Proof.Machine.execSubr r1 r2 s
  | .mulr r1 r2 => Sys2Proof.Machine.execMulr r1 r2 s
  | .divr r1 r2 => Sys2Proof.Machine.execDivr r1 r2 s
  | .addf t => Sys2Proof.Machine.execAddf t s
  | .subf t => Sys2Proof.Machine.execSubf t s
  | .mulf t => Sys2Proof.Machine.execMulf t s
  | .divf t => Sys2Proof.Machine.execDivf t s
  | .compf t => Sys2Proof.Machine.execCompf t s
  | .fix => Sys2Proof.Machine.execFix s
  | .float => Sys2Proof.Machine.execFloat s
  | .norm => Sys2Proof.Machine.execNorm s
  | .sio => Sys2Proof.Machine.execSio s
  | .ssk f => Sys2Proof.Machine.execSsk f s
  | .rd f => Sys2Proof.Machine.execRd f s
  | .tio => Sys2Proof.Machine.execTio s
  | .td f => Sys2Proof.Machine.execTd f s
  | .svc n => Sys2Proof.Machine.execSvc n s
  | .wd f => Sys2Proof.Machine.execWd f s
  | .lps f => Sys2Proof.Machine.execLps f s
  | .sti f => Sys2Proof.Machine.execSti f s
  | .j t => Sys2Proof.Machine.execJ t s
  | .jeq t => Sys2Proof.Machine.execJeq t s
  | .jlt t => Sys2Proof.Machine.execJlt t s
  | .jgt t => Sys2Proof.Machine.execJgt t s
  | .jsub t => Sys2Proof.Machine.execJsub t s
  | .rsub f => Sys2Proof.Machine.execRsub f s
  | .lda t => Sys2Proof.Machine.execLda t s
  | .ldb t => Sys2Proof.Machine.execLdb t s
  | .ldl t => Sys2Proof.Machine.execLdl t s
  | .lds t => Sys2Proof.Machine.execLds t s
  | .ldt t => Sys2Proof.Machine.execLdt t s
  | .ldx t => Sys2Proof.Machine.execLdx t s
  | .sta t => Sys2Proof.Machine.execSta t s
  | .stb t => Sys2Proof.Machine.execStb t s
  | .stl t => Sys2Proof.Machine.execStl t s
  | .sts t => Sys2Proof.Machine.execSts t s
  | .stt t => Sys2Proof.Machine.execStt t s
  | .stx t => Sys2Proof.Machine.execStx t s
  | .ldch t => Sys2Proof.Machine.execLdch t s
  | .stch t => Sys2Proof.Machine.execStch t s
  | .ldf t => Sys2Proof.Machine.execLdf t s
  | .stf t => Sys2Proof.Machine.execStf t s
  | .clear r1 => Sys2Proof.Machine.execClear r1 s
  | .comp t => Sys2Proof.Machine.execComp t s
  | .compr r1 r2 => Sys2Proof.Machine.execCompr r1 r2 s
  | .shiftl r1 n => Sys2Proof.Machine.execShiftl r1 n s
  | .shiftr r1 n => Sys2Proof.Machine.execShiftr r1 n s
  | .rmo r1 r2 => Sys2Proof.Machine.execRmo r1 r2 s
  | .tix t => Sys2Proof.Machine.execTix t s
  | .tixr r1 => Sys2Proof.Machine.execTixr r1 s

end Sys2Proof.Machine
end

