-- ==== Sys2Proof/Machine/Engine.lean ====
section
/-! DEFINITION. The engine's own interface: one resolved instruction record in, a result record out (30_encoding.md R80
to R85, 60_exceptions.md R300, R320, R323). It takes records no decoder builds too: any integer effective address, any integer
ordinal, any operand list. -/

namespace Sys2Proof.Machine

/-- The instruction record (R80). -/
structure Record where
  opcode : Opcode
  operands : List Int
  indexed : Bool
  ea : Int
  deriving DecidableEq, Repr

/-- The instruction a record is, by the fields its shape reads (R82, R241). Too few operands and a negative shift
count are refused (R83, R85, R250); extra operands and unused fields are ignored (R83, D26). Shape I reads nothing
(R82), so SVC without an operand is SVC (R177). -/
def Record.toInstr (r : Record) : Except Refusal Instr :=
  match builder r.opcode with
  | .none i => .ok i
  | .mem build => .ok (build (.resolved r.ea r.indexed))
  | .loose build => .ok (build (.simple (.resolved r.ea r.indexed)))
  | .regReg build =>
    match r.operands with
    | r1 :: r2 :: _ => .ok (build r1 r2)
    | [_] => .error (.tooFewOperands r.opcode)
    | [] => .error (.tooFewOperands r.opcode)
  | .reg build =>
    match r.operands with
    | r1 :: _ => .ok (build r1)
    | [] => .error (.tooFewOperands r.opcode)
  | .regCount build =>
    match r.operands with
    | r1 :: n :: _ => if n < 0 then .error (.negativeShiftCount r.opcode n) else .ok (build r1 n.toNat)
    | [_] => .error (.tooFewOperands r.opcode)
    | [] => .error (.tooFewOperands r.opcode)
  | .number build =>
    match r.operands with
    | n :: _ => .ok (build n)
    | [] => .ok (build 0)

/-- The result record carries the record's operand list unchanged (R320). -/
def State.withOperands (operands : List Int) (s : State) : State :=
  { s with result := s.result.map fun r => { r with operands := operands } }

/-- One execute of a record (R80, R110, R300, R323): the state changed in place, with the result record returned, which
carries the outcome (R320). After the outcome Fault nothing but that record is new (R306). -/
def execute (r : Record) (s : State) : Answer :=
  match r.toInstr with
  | .error e => .refused e
  | .ok i =>
    match exec i s with
    | .next t => .next (t.withOperands r.operands)
    | .fault (.engine f) => .next (s.recordFault r.opcode r.operands f)
    | .fault (.notRunning st) => .fault (.notRunning st)
    | .refused e => .refused e

/-- The record the decode stage hands the engine for an instruction (R91, R94). -/
def record (i : Instr) (s : State) : Record where
  opcode := i.opcode
  operands := fieldOperands i.fields
  indexed := fieldIndexed i.fields
  ea := fieldEa i.fields s

end Sys2Proof.Machine
end

