-- ==== Sys2Proof/Machine/Loop.lean ====
section
/-! DEFINITION. What the reference control loop does around the engine: fetching raw bytes, decoding, advancing PC,
acting on the outcome (70_reset_and_hazards.md R350 to R354, 20_memory.md R70, R73). -/

namespace Sys2Proof.Machine

/-- The bytes the loop can read at PC: at most four, the longest instruction (R88), and none past the end of memory
(R73, R350). -/
def fetchBytes (s : State) : List Byte :=
  (([0, 1, 2, 3].map fun k => s.pc.toNat + k).filter fun a => decide (a < s.memSize)).map s.mem.read

/-- The status a failed fetch or decode leaves (R350). -/
def stopStatus (pc : Nat) : DecodeError → Status
  | .truncated => .fetchFault pc
  | .noOpcode => .decodeFault pc
  | .formNotAdmitted => .decodeFault pc
  | .addressingUndefined => .decodeFault pc

/-- The instruction at PC and its length, or the status the loop stops with (R350). -/
def fetchDecode (s : State) : Except Status (Instr × Nat) :=
  match decode (fetchBytes s) with
  | .ok r => .ok r
  | .error e => .error (stopStatus s.pc.toNat e)

/-- PC moved past an instruction of `len` bytes, before the execute (R350, D15). -/
def State.advance (len : Nat) (s : State) : State := s.setPc ((s.pc.toNat + len : Nat) : Int)

/-- The loop on the engine's answer for instruction `i`, fetched in state `s` (R350). On a fault the engine has changed
nothing and PC is back at the instruction, so the state is that of `s` (R306, R308). -/
def loopOutcome (i : Instr) (s : State) : Answer → Answer
  | .next t => .next t.observe
  | .fault (.engine f) => .next (s.surfaceFault i.opcode (fieldOperands i.fields) f)
  | .fault (.notRunning st) => .fault (.notRunning st)
  | .refused r => .refused r

/-- One step of the loop from status Running (R350). -/
def loopStep (s : State) : Answer :=
  match fetchDecode s with
  | .error st => .next { s with status := st }
  | .ok (i, len) => loopOutcome i s (exec i (s.advance len))

/-- Bytes written one after another from an address on, those that lie in memory (R73, R342 step 2). -/
def storeBytes (size : Nat) : Nat → List Byte → Memory → Memory
  | _, [], m => m
  | a, v :: vs, m => storeBytes size (a + 1) vs (if a < size then m.write a v else m)

end Sys2Proof.Machine
end

