-- ==== Sys2Proof/Machine/Step.lean ====
section
/-! DEFINITION. One step of the machine: one step of the reference control loop (70_reset_and_hazards.md R350). -/

namespace Sys2Proof.Machine

/-- One step (R350). From a status other than Running there is none (R351, R352). -/
def step (s : State) : Host.Outcome State Fault Refusal :=
  match s.status with
  | .running => loopStep s
  | .halted => .fault (.notRunning .halted)
  | .faulted f => .fault (.notRunning (.faulted f))
  | .fetchFault pc => .fault (.notRunning (.fetchFault pc))
  | .decodeFault pc => .fault (.notRunning (.decodeFault pc))

/-- The state with an instruction's bytes stored at PC, where the loop fetches, and the loop running: what a loader
leaves (R341). Nothing else changes (notes/assumptions/7.md). -/
def State.withFetchWord (s : State) (nbits w : Nat) : State :=
  { s with mem := storeBytes s.memSize s.pc.toNat (tableBytes nbits w) s.mem, status := .running }

end Sys2Proof.Machine
end

