-- ==== Sys2Proof/Machine/HostInterface.lean ====
section
/-! DEFINITION. What the outside world can do between executes (60_exceptions.md R323, 20_memory.md R72): reset, load,
read registers and memory. None of these is part of a step. -/

namespace Sys2Proof.Machine

/-- Reset by the host: every register and byte to 0, status Running, the configuration kept (R323, R340). -/
def hostReset (s : State) : State := State.resetWith s.config

/-- The loader writes one byte of an image; an address outside memory is not written (R342 step 2). -/
def loadByte (s : State) (c : Host.Cell) : State :=
  { s with mem := if c.1 < s.memSize then s.mem.write c.1 c.2 else s.mem }

/-- The standard launch state: reset, then the image, then PC, every other register at its reset value (R341, R342). -/
def launch (c : Config) (image : List Host.Cell) (start : Int) : State :=
  (image.foldl loadByte (State.resetWith c)).setPc start

/-- A direct memory read by the UI or the loop: any byte of memory, read-only (R72, R323). -/
def peek (s : State) (a : Nat) : Option Byte := if a < s.memSize then some (s.mem.read a) else none

/-- The nine registers in the order of R20. -/
def allRegNames : List RegName := [.a, .x, .l, .b, .s, .t, .pc, .sw, .f]

/-- `RegisterSet.all()`: every register, read-only (R323). -/
def registerSetAll (s : State) : List (RegName × Int) := allRegNames.map fun r => (r, s.readNamed r)

/-- The spec's codes of the engine's faults (R300 section 2, D3). No instruction reads one. -/
def EngineFault.code : EngineFault → Nat
  | .alignmentFault _ => 0
  | .divideByZeroFault _ => 1
  | .invalidRegisterOrdinalFault _ => 2
  | .unknownRegisterFault _ => 3
  | .memoryBoundsFault _ => 4

end Sys2Proof.Machine
end

