-- ==== Sys2Proof/Machine/Trace.lean ====
section
/-! DEFINITION. The text of a trace (60_exceptions.md R321). No step reads it (R319). -/

namespace Sys2Proof.Machine

/-- The mnemonic of an opcode (30_encoding.md R84). -/
def mnemonic : Opcode → String
  | .add => "ADD"
  | .sub => "SUB"
  | .mul => "MUL"
  | .div => "DIV"
  | .and => "AND"
  | .or => "OR"
  | .addr => "ADDR"
  | .subr => "SUBR"
  | .mulr => "MULR"
  | .divr => "DIVR"
  | .addf => "ADDF"
  | .subf => "SUBF"
  | .mulf => "MULF"
  | .divf => "DIVF"
  | .compf => "COMPF"
  | .fix => "FIX"
  | .float => "FLOAT"
  | .norm => "NORM"
  | .sio => "SIO"
  | .ssk => "SSK"
  | .rd => "RD"
  | .tio => "TIO"
  | .td => "TD"
  | .svc => "SVC"
  | .wd => "WD"
  | .lps => "LPS"
  | .sti => "STI"
  | .j => "J"
  | .jeq => "JEQ"
  | .jlt => "JLT"
  | .jgt => "JGT"
  | .jsub => "JSUB"
  | .rsub => "RSUB"
  | .lda => "LDA"
  | .ldb => "LDB"
  | .ldl => "LDL"
  | .lds => "LDS"
  | .ldt => "LDT"
  | .ldx => "LDX"
  | .sta => "STA"
  | .stb => "STB"
  | .stl => "STL"
  | .sts => "STS"
  | .stt => "STT"
  | .stx => "STX"
  | .ldch => "LDCH"
  | .stch => "STCH"
  | .ldf => "LDF"
  | .stf => "STF"
  | .clear => "CLEAR"
  | .comp => "COMP"
  | .compr => "COMPR"
  | .shiftl => "SHIFTL"
  | .shiftr => "SHIFTR"
  | .rmo => "RMO"
  | .tix => "TIX"
  | .tixr => "TIXR"

/-- A hexadecimal digit, uppercase (R321). -/
def hexDigit (n : Nat) : Char :=
  if n < 10 then Char.ofNat (48 + n) else Char.ofNat (55 + n)

/-- The low `k` hexadecimal digits of a number, leading zeros kept (R321). -/
def hexDigits : Nat → Nat → List Char
  | 0, _ => []
  | k + 1, v => hexDigits k (v / 16) ++ [hexDigit (v % 16)]

/-- `<MNEMONIC>: Resultado = <hexN>` for the results R321 fixes, at 6 or 12 digits; any other text is free. -/
def Trace.text : Trace → String
  | .word op r => mnemonic op ++ ": Resultado = " ++ String.ofList (hexDigits 6 r.toNat)
  | .word48 op r => mnemonic op ++ ": Resultado = " ++ String.ofList (hexDigits 12 r.toNat)
  | .free n => freeTrace n

end Sys2Proof.Machine
end

