-- ==== Sys2Proof/Safety.lean ====
section
/-! DEFINITION. The terms statements use: the invariants, the ends of a run, what an instruction leaves unchanged, and
the spec's own words for a memory operand, a sign and a comparison, written apart from the functions the meanings
call. -/

namespace Sys2Proof.Machine

/-! ### Invariants and the ends of a run -/

/-- The memory's invariant: canonical form, and no listed byte outside memory (R35). -/
def State.memOk (s : State) : Bool := s.mem.wf && s.mem.below s.memSize

/-- SW holds 0, 1 or 2 (R34): its reserved bits are 0 and its CC is not the pattern 3 (R27). -/
def State.swOk (s : State) : Bool := decide (s.sw.toNat < 3)

/-- A stopped status is the one the state explains: Halted after RSUB with L = 0 leaves PC = 0 (R196, R322), Faulted
carries the fault of the result record (R308, R320), FetchFault and DecodeFault carry the PC (R350). -/
def State.statusOk (s : State) : Bool :=
  match s.status with
  | .running => true
  | .fetchFault pc => decide (s.pc.toNat = pc)
  | .decodeFault pc => decide (s.pc.toNat = pc)
  | .halted =>
    decide (s.pc = 0) && decide (s.regL = 0) &&
      match s.result with
      | none => false
      | some r => decide (r.opcode = .rsub) && decide (r.outcome = .halt)
  | .faulted f =>
    match s.result with
    | none => false
    | some r => decide (r.outcome = .fault f) && decide (r.newCC = none)

/-- The machine's invariant. -/
def State.Inv (s : State) : Prop :=
  s.config.ok = true ∧ s.memOk = true ∧ s.swOk = true ∧ s.statusOk = true

/-- A run's normal end (R351, R352). -/
def Status.normalEnd : Status → Bool
  | .halted => true
  | .running => false
  | .faulted _ => false
  | .fetchFault _ => false
  | .decodeFault _ => false

/-- An abnormal end, which counts as a failure and not as normal completion (R351). -/
def Status.abnormalEnd : Status → Bool
  | .faulted _ => true
  | .fetchFault _ => true
  | .decodeFault _ => true
  | .running => false
  | .halted => false

/-! ### The spec's words -/

/-- The word in the three bytes from `a` on, the lowest address most significant (R12, R52). -/
def wordAt (s : State) (a : Nat) : Word := s.mem.read a ++ s.mem.read (a + 1) ++ s.mem.read (a + 2)

/-- The 48-bit value in the six bytes from `a` on (R52, R57). -/
def word48At (s : State) (a : Nat) : Word48 :=
  s.mem.read a ++ s.mem.read (a + 1) ++ s.mem.read (a + 2) ++ s.mem.read (a + 3) ++ s.mem.read (a + 4) ++
    s.mem.read (a + 5)

/-- 0 if zero, 1 if negative, 2 if positive (R30). -/
def signCC (d : Int) : CC := if 0 < d then .gt else if d < 0 then .lt else .eq

/-- The comparison of R31. -/
def compareCC {w : Nat} (mode : CmpMode) (a b : BitVec w) : CC :=
  match mode with
  | .exact => signCC (a.toInt - b.toInt)
  | .wrapped => signCC (trunc w (a.toInt - b.toInt)).toInt

/-- SW after a condition code is written, or is not: SW[23:2] kept (R28). -/
def swWithCC (sw : Word) : Option CC → Word
  | none => sw
  | some .eq => sw.extractLsb' 2 22 ++ (0 : BitVec 2)
  | some .lt => sw.extractLsb' 2 22 ++ (1 : BitVec 2)
  | some .gt => sw.extractLsb' 2 22 ++ (2 : BitVec 2)

/-- An effective address that is no multiple of 3 (R53). -/
def misaligned (ea : Int) : Prop := ea % 3 ≠ 0

/-- An aligned access of `1 + extra` words that reaches outside memory (R54, R57, R305). -/
def outside (s : State) (extra : Nat) (ea : Int) : Prop :=
  ea % 3 = 0 ∧ (ea < 0 ∨ 3 * (s.config.memWords : Int) ≤ ea + 3 * extra)

/-- An ordinal outside 0..5 (R21). -/
def badOrdinal (o : Int) : Prop := o < 0 ∨ 5 < o

/-- The 29 opcodes that access memory (R301). -/
def memoryOpcodes : List Opcode :=
  [.add, .sub, .mul, .div, .and, .or, .comp, .tix, .addf, .subf, .mulf, .divf, .compf,
   .lda, .ldb, .ldl, .lds, .ldt, .ldx, .sta, .stb, .stl, .sts, .stt, .stx, .ldch, .stch, .ldf, .stf]

/-- The opcodes whose access is two words long (R62). -/
def wideOpcodes : List Opcode := [.addf, .subf, .mulf, .divf, .compf, .ldf, .stf]

/-- The words an opcode's access needs beyond the first (R57, R62). -/
def extraWords (op : Opcode) : Nat := if op ∈ wideOpcodes then 1 else 0

/-- The opcodes that write memory (R62). -/
def storeOpcodes : List Opcode := [.sta, .stb, .stl, .sts, .stt, .stx, .stch, .stf]

/-- The length rule R90, from the first byte and the second: none where no opcode is selected. -/
def lengthR90 (b0 b1 : Byte) : Option Nat :=
  if b0 ∈ ([0xC0, 0xC4, 0xC8, 0xF0, 0xF8] : List Byte) then some 1
  else if b0 ∈ ([0x90, 0x94, 0x98, 0x9C, 0xA0, 0xA4, 0xA8, 0xAC, 0xB0, 0xB4, 0xB8] : List Byte) then some 2
  else if b0 &&& 0xFC ∈ ([0x18, 0x1C, 0x20, 0x24, 0x40, 0x44, 0x58, 0x5C, 0x60, 0x64, 0x88, 0xEC, 0xD8, 0xE0, 0xDC,
    0xD0, 0xD4, 0x3C, 0x30, 0x38, 0x34, 0x48, 0x4C, 0x00, 0x68, 0x08, 0x6C, 0x74, 0x04, 0x0C, 0x78, 0x14, 0x7C, 0x84,
    0x10, 0x50, 0x54, 0x70, 0x80, 0x28, 0x2C] : List Byte) then
    if b0 &&& 3 ≠ 0 ∧ b1 &&& 0x10 ≠ 0 then some 4 else some 3
  else none

/-- The bytes `M[a .. a+n-1]`. -/
def bytesAt (s : State) (a n : Nat) : List Byte := (List.range n).map fun k => s.mem.read (a + k)

/-! ### What an instruction leaves -/

/-- Memory reads the same everywhere. -/
def sameMem (s u : State) : Prop := ∀ a : Nat, u.mem.read a = s.mem.read a

/-- Memory reads the same at every address but the `n` from `a` on. -/
def sameMemBut (a n : Nat) (s u : State) : Prop :=
  ∀ b : Nat, b < a ∨ a + n ≤ b → u.mem.read b = s.mem.read b

/-- The result record of an execute that ends Ok or Halt, but for its trace (R320). -/
def resultRecord (i : Instr) (outcome : ResultOutcome) (cc : Option CC) (cond : Option Bool) (tr : Trace) : Result where
  opcode := i.opcode
  operands := fieldOperands i.fields
  newCC := cc
  outcome := outcome
  unimpl := decide (i.opcode ∈ [Opcode.norm, .sio, .ssk, .rd, .tio, .td, .svc, .wd, .lps, .sti])
  condMet := cond
  trace := tr

/-- What an execute leaves but for memory, PC and F: the general registers outside `writes`, the parameters and the
status are unchanged; SW is changed only by the condition code, if one is written (R28); and the result record is
returned, with the trace `fixed` where R321 fixes one and with any trace where it does not. -/
structure Leaves (writes : List GReg) (i : Instr) (outcome : ResultOutcome) (cc : Option CC) (cond : Option Bool)
    (fixed : Option Trace) (s u : State) : Prop where
  regs : ∀ g, g ∉ writes → u.reg g = s.reg g
  config : u.config = s.config
  status : u.status = s.status
  sw : u.sw = swWithCC s.sw cc
  result : ∃ tr, u.result = some (resultRecord i outcome cc cond tr) ∧ ∀ x, fixed = some x → tr = x

/-- Instruction `i` completes in `s` with `r` in general register `g`, CC the sign of `r`, and nothing else changed. -/
def completesInto (i : Instr) (g : GReg) (r : Word) (fixed : Option Trace) (s : State) : Prop :=
  ∃ u, exec i s = .next u ∧ u.reg g = r ∧ u.pc = s.pc ∧ u.regF = s.regF ∧ sameMem s u ∧
    Leaves [g] i .ok (some (signCC r.toInt)) none fixed s u

/-- Instruction `i` completes in `s` with `r` in F, CC the sign of `r` only if `FLOAT_ARITH_SETS_CC`, and nothing else
changed. -/
def completesIntoF (i : Instr) (r : Word48) (s : State) : Prop :=
  ∃ u, exec i s = .next u ∧ u.regF = r ∧ u.pc = s.pc ∧ sameMem s u ∧
    Leaves [] i .ok (if s.config.floatArithSetsCC then some (signCC r.toInt) else none) none
      (some (.word48 i.opcode r)) s u

/-- Instruction `i` completes in `s` with condition code `c` and nothing else changed. -/
def completesWithCC (i : Instr) (c : CC) (s : State) : Prop :=
  ∃ u, exec i s = .next u ∧ u.pc = s.pc ∧ u.regF = s.regF ∧ sameMem s u ∧
    Leaves [] i .ok (some c) none none s u

/-- Instruction `i` completes in `s` with `r` in general register `g` and nothing else changed, CC included. -/
def completesMove (i : Instr) (g : GReg) (r : Word) (s : State) : Prop :=
  ∃ u, exec i s = .next u ∧ u.reg g = r ∧ u.pc = s.pc ∧ u.regF = s.regF ∧ sameMem s u ∧
    Leaves [g] i .ok none none none s u

/-- Instruction `i` completes in `s` with PC `p`, and nothing else changed but the general registers in `writes`. -/
def completesJump (i : Instr) (writes : List GReg) (p : Word) (cond : Option Bool) (s : State) : Prop :=
  ∃ u, exec i s = .next u ∧ u.pc = p ∧ (∀ g ∈ writes, u.reg g = s.pc) ∧ u.regF = s.regF ∧ sameMem s u ∧
    Leaves writes i .ok none cond none s u

/-- Instruction `i` completes in `s` with the bytes `bs` stored from address `a` on, and nothing else changed. The
bytes read back if the memory is in canonical form. -/
def completesStore (i : Instr) (a : Nat) (bs : List Byte) (s : State) : Prop :=
  ∃ u, exec i s = .next u ∧ u.pc = s.pc ∧ u.regF = s.regF ∧ sameMemBut a bs.length s u ∧
    (s.mem.wf = true → bytesAt u a bs.length = bs) ∧
    Leaves [] i .ok none none none s u

/-- The same instruction executed `n` times in a row by the engine. -/
def execTimes (i : Instr) : Nat → State → Answer
  | 0, s => .next s
  | n + 1, s =>
    match exec i s with
    | .next u => execTimes i n u
    | .fault f => .fault f
    | .refused r => .refused r

/-- A change of the state carried through an answer. -/
def mapNext (f : State → State) : Answer → Answer
  | .next u => .next (f u)
  | .fault e => .fault e
  | .refused r => .refused r

end Sys2Proof.Machine
end

