-- ==== Sys2Proof/Certificates/Slice0/Obligations.lean ====
section
/-! DEFINITION. The statements for the provers. Each docstring names the rules of spec/ it formalises; OBLIGATIONS.json
lists them. -/

open Sys2Proof Sys2Proof.Machine

/-! ### Encoding -/

/-- Decode and encode agree: the bytes of any well-formed instruction, whatever follows them, decode to that instruction
and its length (R88 to R97). -/
def Obligations.DecodeOfEncodeIsTheInstruction : Prop :=
  ∀ (i : Instr) (rest : List Byte), i.wellFormed = true →
    decode (encode i ++ rest) = .ok (i, (encode i).length)

/-- The other direction: what bytes decode to is well-formed, its length is that of its encoding and not longer than the
bytes, and its encoding is the bytes read, but for a format-2 nibble that the opcode ignores (R91). -/
def Obligations.DecodedInstructionsReencode : Prop :=
  ∀ (bs : List Byte) (i : Instr) (len : Nat), decode bs = .ok (i, len) →
    i.wellFormed = true ∧ len = (encode i).length ∧ 1 ≤ len ∧ len ≤ 4 ∧ len ≤ bs.length ∧
    match i.fields with
    | .reg _ => ∃ b0 b1 rest, bs = b0 :: b1 :: rest ∧ encode i = [b0, b1 &&& 0xF0]
    | .number _ => ∃ b0 b1 rest, bs = b0 :: b1 :: rest ∧ encode i = [b0, b1 &&& 0xF0]
    | .none => bs.take len = encode i
    | .mem _ => bs.take len = encode i
    | .loose _ => bs.take len = encode i
    | .regReg _ _ => bs.take len = encode i
    | .regCount _ _ => bs.take len = encode i

/-- R89: a first byte selects an opcode exactly when its masked bits are that opcode's byte, so it selects at most one;
every opcode byte is a multiple of 4. -/
def Obligations.FirstByteSelectsOneOpcode : Prop :=
  (∀ (b : Byte) (op : Opcode), selectOpcode b = some op ↔ b &&& (builder op).mask = opcodeByte op) ∧
  (∀ op : Opcode, (opcodeByte op).toNat % 4 = 0)

/-- R90, all five steps: with four bytes at hand, where no opcode is selected decoding fails so, and where one is, it
does not, and the length of what is decoded is that of R90. The error names are the model's (notes/assumptions/9.md). -/
def Obligations.InstructionLengthRule : Prop :=
  ∀ (b0 b1 b2 b3 : Byte) (rest : List Byte),
    (lengthR90 b0 b1 = none → decode (b0 :: b1 :: b2 :: b3 :: rest) = .error .noOpcode) ∧
    (∀ n, lengthR90 b0 b1 = some n →
      decode (b0 :: b1 :: b2 :: b3 :: rest) ≠ .error .noOpcode ∧
      decode (b0 :: b1 :: b2 :: b3 :: rest) ≠ .error .truncated ∧
      ∀ i len, decode (b0 :: b1 :: b2 :: b3 :: rest) = .ok (i, len) → len = n)

/-- The admitted subset (R92, R93, R97): with four bytes at hand, a data opcode or jump decodes exactly with n = i = 1
and defined b, p; RSUB and the format-3/4 placeholders decode with n = i = 0 whatever b, p, e are, and with every other
n, i exactly where b, p are defined; an opcode of format 1 or 2 always decodes. That RSUB and the placeholders need
defined b, p unless n = i = 0, and then need nothing of them, is the model's reading (DEDUCED,
notes/assumptions/11.md). -/
def Obligations.AdmittedFormsOnly : Prop :=
  ∀ (b0 b1 b2 b3 : Byte) (rest : List Byte) (op : Opcode), selectOpcode b0 = some op →
    let undefinedBits := (b1 &&& 0x10 = 0 ∧ b1 &&& 0x60 = 0x60) ∨ (b1 &&& 0x10 ≠ 0 ∧ b1 &&& 0x60 ≠ 0)
    let decodes := ∃ r, decode (b0 :: b1 :: b2 :: b3 :: rest) = .ok r
    match builder op with
    | .mem _ => decodes ↔ b0 &&& 3 = 3 ∧ ¬ undefinedBits
    | .loose _ => decodes ↔ b0 &&& 3 = 0 ∨ ¬ undefinedBits
    | .none _ => decodes
    | .regReg _ => decodes
    | .reg _ => decodes
    | .regCount _ => decodes
    | .number _ => decodes

/-- The worked encoding of R98 with its record, and a word of each format: from the programs of 95_test_vectors.md `FIX`
(format 1), `SHIFTR A,4` (format 2), `LDA SRC,X` (format 3, direct, indexed), `JLT LOOP` (format 3, PC-relative, -13), and
written out from R88 and R93 `+LDA` of 0x12345, indexed (format 4). -/
def Obligations.SpecWordsDecode : Prop :=
  decode [0x1B, 0x00, 0x30] = .ok (.add (.direct false 0x030), 3) ∧
  (∀ s : State, record (.add (.direct false 0x030)) s = { opcode := .add, operands := [], indexed := false, ea := 0x30 }) ∧
  decode [0xC4] = .ok (.fix, 1) ∧
  decode [0xA8, 0x04] = .ok (.shiftr 0 4, 2) ∧
  decode [0x03, 0x80, 0x36] = .ok (.lda (.direct true 0x036), 3) ∧
  decode [0x3B, 0x2F, 0xF3] = .ok (.jlt (.pcRelative false 0xFF3), 3) ∧
  decode [0x03, 0x91, 0x23, 0x45] = .ok (.lda (.extended true 0x12345), 4)

/-! ### Reset, launch and the invariant -/

/-- R37, R340: reset sets every register and every byte to zero and the status to Running, in every configuration;
CC = 0 and the reserved bits of SW are 0. -/
def Obligations.ResetZeroesEverything : Prop :=
  (∀ c : Config, (∀ r : RegName, (State.resetWith c).readNamed r = 0) ∧
    (∀ a : Nat, (State.resetWith c).mem.read a = 0) ∧ (State.resetWith c).ccBits = 0 ∧
    (State.resetWith c).swReserved = 0 ∧ (State.resetWith c).status = .running) ∧
  State.reset = State.resetWith State.reset.config

/-- The reset state meets the invariant, in every configuration R8 allows. -/
def Obligations.ResetMeetsTheInvariant : Prop :=
  State.reset.Inv ∧ ∀ c : Config, c.ok = true → (State.resetWith c).Inv

/-- Every step keeps the invariant: memory in canonical form and inside its capacity, SW one of 0, 1, 2 (R34), and a
stopped status explained by the state (R196, R308, R322, R350). -/
def Obligations.EveryStepKeepsTheInvariant : Prop :=
  ∀ s u : State, s.Inv → step s = .next u → u.Inv

/-- R342: the standard launch state from an image: each image byte inside memory is written (a later entry for the same
address last), every other byte is 0, PC is the start address truncated, every other register is 0 and the status is
Running; it meets the invariant. -/
def Obligations.StandardLaunchState : Prop :=
  ∀ (c : Config) (image : List Host.Cell) (start : Int),
    (∀ a : Nat, (launch c image start).mem.read a =
      if a < 3 * c.memWords then
        match image.reverse.find? fun e => e.1 == a with
        | some e => e.2
        | none => 0
      else 0) ∧
    (launch c image start).pc = trunc 24 start ∧
    (∀ r : RegName, r ≠ .pc → (launch c image start).readNamed r = 0) ∧
    (launch c image start).status = .running ∧ (launch c image start).config = c ∧
    (c.ok = true → (launch c image start).Inv)

/-! ### The control loop -/

/-- A step runs the decoded instruction (R350): from status Running, where the bytes at PC decode to `i` of `len` bytes,
PC is advanced past them and `i` executed; a next state is kept, with status Halted after the outcome Halt, and an
engine fault is surfaced on the state before the step. -/
def Obligations.StepExecutesTheDecodedInstruction : Prop :=
  ∀ (s : State) (i : Instr) (len : Nat), s.status = .running → fetchDecode s = .ok (i, len) →
    (∀ u, exec i (s.setPc ((s.pc.toNat + len : Nat) : Int)) = .next u → step s = .next u.observe) ∧
    (∀ f, exec i (s.setPc ((s.pc.toNat + len : Nat) : Int)) = .fault (.engine f) →
      step s = .next (s.surfaceFault i.opcode (fieldOperands i.fields) f))

/-- R350 in the spec's own order, on the bytes of memory: FetchFault with PC outside memory; DecodeFault where the first
byte selects no opcode; FetchFault where the instruction runs past the end of memory; DecodeFault where its bytes decode
to no record; otherwise PC is advanced and the instruction executed. Where a fault status is set nothing else
changes. -/
def Obligations.StepFollowsTheControlLoop : Prop :=
  ∀ s : State, s.status = .running →
    let pc0 := s.pc.toNat
    let b0 := s.mem.read pc0
    let b1 := s.mem.read (pc0 + 1)
    (s.memSize ≤ pc0 → step s = .next { s with status := .fetchFault pc0 }) ∧
    (pc0 < s.memSize → lengthR90 b0 b1 = none → step s = .next { s with status := .decodeFault pc0 }) ∧
    (∀ n, pc0 < s.memSize → lengthR90 b0 b1 = some n → s.memSize < pc0 + n →
      step s = .next { s with status := .fetchFault pc0 }) ∧
    (∀ n, lengthR90 b0 b1 = some n → pc0 + n ≤ s.memSize →
      (∀ e, decode (bytesAt s pc0 n) = .error e → step s = .next { s with status := .decodeFault pc0 }) ∧
      (∀ i len, decode (bytesAt s pc0 n) = .ok (i, len) →
        len = n ∧ step s = loopOutcome i s (exec i { s with pc := trunc 24 ((pc0 + n : Nat) : Int) })))

/-- What the loop does with each outcome (R350, R351): Ok leaves the state as it is, Halt sets status Halted, a fault
leaves the state before the step with status Faulted and its fault in the result record (the model's forms:
notes/assumptions/6.md and 13.md). -/
def Obligations.LoopActsOnTheOutcome : Prop :=
  ∀ (i : Instr) (s u : State) (r : Result) (f : EngineFault), u.result = some r →
    (r.outcome = .ok → loopOutcome i s (.next u) = .next u) ∧
    (r.outcome = .halt → loopOutcome i s (.next u) = .next { u with status := .halted }) ∧
    ∃ (tr : Trace) (n : Nat), loopOutcome i s (.fault (.engine f)) = .next
      { s with
        status := .faulted f
        result := some
          { opcode := i.opcode, operands := fieldOperands i.fields, newCC := none, outcome := .fault f,
            unimpl := isPlaceholder i.opcode, condMet := none, trace := tr }
        freeTraces := n }

/-- There is no step from a status other than Running (R351, R352); that `step` answers a fault there is the model's form
of it (notes/assumptions/6.md). -/
def Obligations.StoppedMachineTakesNoStep : Prop :=
  ∀ s : State, s.status ≠ .running → step s = .fault (.notRunning s.status)

/-- A step whose instruction faults leaves every register, PC at the faulting instruction, SW, F, every byte and the
parameters as before, with status Faulted and the fault in the result record (R306, R308, R350, R353). -/
def Obligations.FaultLeavesEveryRegisterAndByte : Prop :=
  ∀ (s : State) (i : Instr) (len : Nat) (f : EngineFault), s.status = .running → fetchDecode s = .ok (i, len) →
    exec i (s.advance len) = .fault (.engine f) →
    ∃ u, step s = .next u ∧ u.status = .faulted f ∧ (∀ r : RegName, u.readNamed r = s.readNamed r) ∧
      sameMem s u ∧ u.config = s.config ∧
      ∃ r, u.result = some r ∧ r.opcode = i.opcode ∧ r.operands = fieldOperands i.fields ∧
        r.outcome = .fault f ∧ r.newCC = none

/-- Every execute ends with Ok, Halt or an engine fault (R300): it is never refused, and never stuck. -/
def Obligations.ExecEndsWithOneOutcome : Prop :=
  ∀ (i : Instr) (s : State),
    (∃ u r, exec i s = .next u ∧ u.result = some r ∧ r.opcode = i.opcode ∧
      r.operands = fieldOperands i.fields ∧ (r.outcome = .ok ∨ r.outcome = .halt)) ∨
    ∃ f, exec i s = .fault (.engine f)

/-- Only RSUB with L = 0 ends a run normally (R196, R300, R351). -/
def Obligations.OnlyRsubWithZeroLHalts : Prop :=
  ∀ s u : State, step s = .next u →
    (u.status.normalEnd = true ↔ s.regL = 0 ∧ ∃ f len, fetchDecode s = .ok (.rsub f, len))

/-- R34 over any run of the machine, from any state: the reserved bits of SW never change, and SW stays 0, 1 or 2 if it
is so at the start. The parameters never change either. -/
def Obligations.RunKeepsReservedBitsOfSW : Prop :=
  ∀ (n : Nat) (s u : State), Sys2Proof.core.run n s = .next u →
    u.swReserved = s.swReserved ∧ (s.sw.toNat < 3 → u.sw.toNat < 3) ∧ u.config = s.config

/-! ### Faults -/

/-- Every fault of an execute has its cause (R301 to R305, R309): the opcode is one that can raise it, the cause the rule
names holds, and the value recorded is the one the rule names. An ordinal is recorded only where an ordinal is required,
never a shift count, and r2 only if r1 is good; a divisor is 0 where a zero divisor is reported. UnknownRegisterFault is
never raised (R303). -/
def Obligations.FaultsHaveTheirCause : Prop :=
  ∀ (i : Instr) (s : State) (f : EngineFault), exec i s = .fault (.engine f) →
    match f with
    | .alignmentFault ea => i.opcode ∈ memoryOpcodes ∧ ea = fieldEa i.fields s ∧ misaligned ea
    | .memoryBoundsFault ea =>
      i.opcode ∈ memoryOpcodes ∧ ea = fieldEa i.fields s ∧ outside s (extraWords i.opcode) ea
    | .invalidRegisterOrdinalFault o =>
      badOrdinal o ∧
        match i with
        | .addr r1 r2 | .subr r1 r2 | .mulr r1 r2 | .divr r1 r2 | .compr r1 r2 | .rmo r1 r2 =>
          o = r1 ∨ (¬ badOrdinal r1 ∧ o = r2)
        | .clear r1 | .tixr r1 => o = r1
        | .shiftl r1 _ | .shiftr r1 _ => o = r1
        | _ => False
    | .divideByZeroFault op =>
      op = i.opcode ∧
        match i with
        | .div t => ∃ w : Nat, targetEa t s = 3 * (w : Int) ∧ w < s.config.memWords ∧ wordAt s (3 * w) = 0
        | .divr r1 r2 => ∃ g1 g2 : GReg, r1 = g1.ordinal ∧ r2 = g2.ordinal ∧ s.reg g1 = 0
        | .divf t => ∃ w : Nat, targetEa t s = 3 * (w : Int) ∧ w + 1 < s.config.memWords ∧ word48At s (3 * w) = 0
        | _ => False
    | .unknownRegisterFault _ => False

/-- R301: each of the 29 memory opcodes faults on a misaligned effective address, inside memory or not, and records
it. -/
def Obligations.MisalignedAccessFaults : Prop :=
  ∀ (i : Instr) (s : State), i.opcode ∈ memoryOpcodes → misaligned (fieldEa i.fields s) →
    exec i s = .fault (.engine (.alignmentFault (fieldEa i.fields s)))

/-- R305: each of the 29 memory opcodes faults on an aligned access that reaches outside memory, and records it. -/
def Obligations.AccessOutsideMemoryFaults : Prop :=
  ∀ (i : Instr) (s : State), i.opcode ∈ memoryOpcodes → outside s (extraWords i.opcode) (fieldEa i.fields s) →
    exec i s = .fault (.engine (.memoryBoundsFault (fieldEa i.fields s)))

/-- R302, R140, R307: each of the ten ordinal opcodes faults on an ordinal outside 0..5 and records it, r1 before r2. A
shift count is no ordinal. -/
def Obligations.BadOrdinalFaults : Prop :=
  ∀ (s : State) (r1 r2 : Int) (n : Nat),
    (badOrdinal r1 →
      ∀ i ∈ [Instr.addr r1 r2, .subr r1 r2, .mulr r1 r2, .divr r1 r2, .compr r1 r2, .rmo r1 r2, .clear r1, .tixr r1,
        .shiftl r1 n, .shiftr r1 n], exec i s = .fault (.engine (.invalidRegisterOrdinalFault r1))) ∧
    (¬ badOrdinal r1 → badOrdinal r2 →
      ∀ i ∈ [Instr.addr r1 r2, .subr r1 r2, .mulr r1 r2, .divr r1 r2, .compr r1 r2, .rmo r1 r2],
        exec i s = .fault (.engine (.invalidRegisterOrdinalFault r2)))

/-- R304: DIV, DIVR and DIVF fault on a zero divisor and record the opcode; the divisor of DIVR is the value of r1, that
of DIVF all 48 bits. -/
def Obligations.ZeroDivisorFaults : Prop :=
  ∀ (s : State) (t : Target) (w : Nat) (g1 g2 : GReg),
    (targetEa t s = 3 * (w : Int) → w < s.config.memWords → wordAt s (3 * w) = 0 →
      exec (.div t) s = .fault (.engine (.divideByZeroFault .div))) ∧
    (s.reg g1 = 0 → exec (.divr g1.ordinal g2.ordinal) s = .fault (.engine (.divideByZeroFault .divr))) ∧
    (targetEa t s = 3 * (w : Int) → w + 1 < s.config.memWords → word48At s (3 * w) = 0 →
      exec (.divf t) s = .fault (.engine (.divideByZeroFault .divf)))

/-! ### Who writes what -/

/-- R32: the condition code each instruction writes, and that no other instruction writes SW. -/
def Obligations.ConditionCodeWriters : Prop :=
  ∀ (i : Instr) (s u : State), exec i s = .next u →
    match i with
    | .add _ | .sub _ | .mul _ | .div _ | .and _ | .or _ => u.sw = swWithCC s.sw (some (signCC u.regA.toInt))
    | .addr _ r2 | .subr _ r2 | .mulr _ r2 | .divr _ r2 =>
      ∃ g : GReg, r2 = g.ordinal ∧ u.sw = swWithCC s.sw (some (signCC (u.reg g).toInt))
    | .shiftl r1 _ | .shiftr r1 _ =>
      ∃ g : GReg, r1 = g.ordinal ∧ u.sw = swWithCC s.sw (some (signCC (u.reg g).toInt))
    | .comp t => ∃ w : Nat, targetEa t s = 3 * (w : Int) ∧
        u.sw = swWithCC s.sw (some (compareCC s.config.cmpMode s.regA (wordAt s (3 * w))))
    | .compr r1 r2 => ∃ g1 g2 : GReg, r1 = g1.ordinal ∧ r2 = g2.ordinal ∧
        u.sw = swWithCC s.sw (some (compareCC s.config.cmpMode (s.reg g1) (s.reg g2)))
    | .tix t => ∃ w : Nat, targetEa t s = 3 * (w : Int) ∧
        u.sw = swWithCC s.sw (some (compareCC s.config.cmpMode u.regX (wordAt s (3 * w))))
    | .tixr r1 => ∃ g : GReg, r1 = g.ordinal ∧
        u.sw = swWithCC s.sw (some (compareCC s.config.cmpMode u.regX (u.reg g)))
    | .compf t => ∃ w : Nat, targetEa t s = 3 * (w : Int) ∧
        u.sw = swWithCC s.sw (some (compareCC s.config.cmpMode s.regF (word48At s (3 * w))))
    | .addf _ | .subf _ | .mulf _ | .divf _ =>
      u.sw = swWithCC s.sw (if s.config.floatArithSetsCC then some (signCC u.regF.toInt) else none)
    | _ => u.sw = s.sw

/-- The "written by" column of R38: a register that an execute changes is written by one of the instructions R38 lists,
by name or by its ordinal as the destination. -/
def Obligations.RegistersChangeOnlyByTheirWriters : Prop :=
  ∀ (i : Instr) (s u : State), exec i s = .next u →
    let byOrdinal (g : GReg) : Prop :=
      match i with
      | .addr _ r2 | .subr _ r2 | .mulr _ r2 | .divr _ r2 | .rmo _ r2 => r2 = g.ordinal
      | .clear r1 | .shiftl r1 _ | .shiftr r1 _ => r1 = g.ordinal
      | _ => False
    (u.regA ≠ s.regA → i.opcode ∈ [Opcode.add, .sub, .mul, .div, .and, .or, .lda, .ldch, .fix] ∨ byOrdinal .a) ∧
    (u.regX ≠ s.regX → i.opcode ∈ [Opcode.ldx, .tix, .tixr] ∨ byOrdinal .x) ∧
    (u.regL ≠ s.regL → i.opcode ∈ [Opcode.ldl, .jsub] ∨ byOrdinal .l) ∧
    (u.regB ≠ s.regB → i.opcode = .ldb ∨ byOrdinal .b) ∧
    (u.regS ≠ s.regS → i.opcode = .lds ∨ byOrdinal .s) ∧
    (u.regT ≠ s.regT → i.opcode = .ldt ∨ byOrdinal .t) ∧
    (u.pc ≠ s.pc → i.opcode ∈ [Opcode.j, .jeq, .jlt, .jgt, .jsub, .rsub]) ∧
    (u.regF ≠ s.regF → i.opcode ∈ [Opcode.addf, .subf, .mulf, .divf, .float, .ldf])

/-- Only the word stores, STCH and STF write memory (R38, R62): after any other instruction every byte reads as
before. -/
def Obligations.OnlyStoresWriteMemory : Prop :=
  ∀ (i : Instr) (s u : State), exec i s = .next u → i.opcode ∉ storeOpcodes → sameMem s u

/-- The frame of the stores (R55, R56, R58, R59): every byte outside the word, the byte or the two words at the checked
address reads as before, and no register, PC, SW or F changes. -/
def Obligations.StoresChangeOnlyTheirBytes : Prop :=
  ∀ (t : Target) (s u : State) (a : Nat),
    (∀ i ∈ [Instr.sta t, .stb t, .stl t, .sts t, .stt t, .stx t], exec i s = .next u →
      s.access 0 (targetEa t s) = .ok a → sameMemBut a 3 s u ∧ ∀ r : RegName, u.readNamed r = s.readNamed r) ∧
    (exec (.stch t) s = .next u → s.access 0 (targetEa t s) = .ok a →
      sameMemBut (a + s.config.chLane.val) 1 s u ∧ ∀ r : RegName, u.readNamed r = s.readNamed r) ∧
    (exec (.stf t) s = .next u → s.access 1 (targetEa t s) = .ok a →
      sameMemBut a 6 s u ∧ ∀ r : RegName, u.readNamed r = s.readNamed r)

/-- F is private to the extended family (R26, R38): the value of F changes nothing in what an instruction outside the
family does, and nothing at all in what LDF and FLOAT, which only write it, do. -/
def Obligations.FIsReadOnlyByItsFamily : Prop :=
  ∀ (i : Instr) (s : State) (v : Word48),
    (i.opcode ∉ [Opcode.addf, .subf, .mulf, .divf, .compf, .fix, .stf, .ldf, .float] →
      exec i (s.setF v) = mapNext (State.setF v) (exec i s)) ∧
    (i.opcode ∈ [Opcode.ldf, .float] → exec i (s.setF v) = exec i s)

/-- The condition code is read only by JEQ, JLT and JGT (R33, R38): the value of SW changes, in what any other
instruction does, no register but SW, no byte and no outcome. -/
def Obligations.ConditionCodeIsReadOnlyByJumps : Prop :=
  ∀ (i : Instr) (s u : State) (v : Word), i.opcode ∉ [Opcode.jeq, .jlt, .jgt] → exec i s = .next u →
    ∃ u', exec i { s with sw := v } = .next u' ∧ u' = { u with sw := u'.sw }

/-! ### Word arithmetic (R120 to R125) -/

/-- R120 to R125: with the operand word aligned and inside memory, ADD, SUB, MUL, DIV, AND and OR put their 24-bit
result into A and its sign into CC; DIV by zero faults; a misaligned address faults, then one outside memory. -/
def Obligations.WordArithmeticIntoA : Prop :=
  ∀ (t : Target) (s : State),
    (∀ w : Nat, targetEa t s = 3 * (w : Int) → w < s.config.memWords →
      let m := wordAt s (3 * w)
      let into (i : Instr) (r : Word) : Prop := completesInto i .a r (some (.word i.opcode r)) s
      into (.add t) (trunc 24 (s.regA.toInt + m.toInt)) ∧
      into (.sub t) (trunc 24 (s.regA.toInt - m.toInt)) ∧
      into (.mul t) (trunc 24 (s.regA.toInt * m.toInt)) ∧
      (m.toInt ≠ 0 → into (.div t) (trunc 24 (Int.tdiv s.regA.toInt m.toInt))) ∧
      (m.toInt = 0 → exec (.div t) s = .fault (.engine (.divideByZeroFault .div))) ∧
      into (.and t) (s.regA &&& m) ∧
      into (.or t) (s.regA ||| m)) ∧
    (∀ i ∈ [Instr.add t, .sub t, .mul t, .div t, .and t, .or t],
      (misaligned (targetEa t s) → exec i s = .fault (.engine (.alignmentFault (targetEa t s)))) ∧
      (outside s 0 (targetEa t s) → exec i s = .fault (.engine (.memoryBoundsFault (targetEa t s)))))

/-! ### Register arithmetic (R140 to R144) -/

/-- R140 to R144: ADDR, SUBR (r2 minus r1), MULR and DIVR (r2 by r1) put their result into x[r2] and its sign into CC;
DIVR faults where x[r1] is 0; a bad r1 faults, then a bad r2. -/
def Obligations.RegisterArithmeticIntoR2 : Prop :=
  ∀ s : State,
    (∀ g1 g2 : GReg,
      let o1 := g1.ordinal
      let o2 := g2.ordinal
      let into (i : Instr) (r : Word) : Prop := completesInto i g2 r (some (.word i.opcode r)) s
      into (.addr o1 o2) (trunc 24 ((s.reg g2).toInt + (s.reg g1).toInt)) ∧
      into (.subr o1 o2) (trunc 24 ((s.reg g2).toInt - (s.reg g1).toInt)) ∧
      into (.mulr o1 o2) (trunc 24 ((s.reg g2).toInt * (s.reg g1).toInt)) ∧
      ((s.reg g1).toInt ≠ 0 → into (.divr o1 o2) (trunc 24 (Int.tdiv (s.reg g2).toInt (s.reg g1).toInt))) ∧
      ((s.reg g1).toInt = 0 → exec (.divr o1 o2) s = .fault (.engine (.divideByZeroFault .divr)))) ∧
    (∀ r1 r2 : Int, ∀ i ∈ [Instr.addr r1 r2, .subr r1 r2, .mulr r1 r2, .divr r1 r2],
      (badOrdinal r1 → exec i s = .fault (.engine (.invalidRegisterOrdinalFault r1))) ∧
      (¬ badOrdinal r1 → badOrdinal r2 → exec i s = .fault (.engine (.invalidRegisterOrdinalFault r2))))

/-! ### The extended register (R151 to R158) -/

/-- R151 to R155: with both operand words inside memory, ADDF, SUBF, MULF and DIVF put their 48-bit result into F, and
its sign into CC only if `FLOAT_ARITH_SETS_CC`; DIVF by zero faults; a misaligned address faults, then one outside. -/
def Obligations.ExtendedArithmeticIntoF : Prop :=
  ∀ (t : Target) (s : State),
    (∀ w : Nat, targetEa t s = 3 * (w : Int) → w + 1 < s.config.memWords →
      let m := word48At s (3 * w)
      completesIntoF (.addf t) (trunc 48 (s.regF.toInt + m.toInt)) s ∧
      completesIntoF (.subf t) (trunc 48 (s.regF.toInt - m.toInt)) s ∧
      completesIntoF (.mulf t) (trunc 48 (s.regF.toInt * m.toInt)) s ∧
      (m.toInt ≠ 0 → completesIntoF (.divf t) (trunc 48 (Int.tdiv s.regF.toInt m.toInt)) s) ∧
      (m.toInt = 0 → exec (.divf t) s = .fault (.engine (.divideByZeroFault .divf)))) ∧
    (∀ i ∈ [Instr.addf t, .subf t, .mulf t, .divf t],
      (misaligned (targetEa t s) → exec i s = .fault (.engine (.alignmentFault (targetEa t s)))) ∧
      (outside s 1 (targetEa t s) → exec i s = .fault (.engine (.memoryBoundsFault (targetEa t s)))))

/-- R156, R242, R243: COMPF, COMP and COMPR write CC with the comparison of R31 and nothing else; their addresses and
ordinals fault as those of the arithmetic. -/
def Obligations.ComparisonsWriteOnlyCC : Prop :=
  ∀ (t : Target) (s : State),
    (∀ w : Nat, targetEa t s = 3 * (w : Int) → w + 1 < s.config.memWords →
      completesWithCC (.compf t) (compareCC s.config.cmpMode s.regF (word48At s (3 * w))) s) ∧
    (∀ w : Nat, targetEa t s = 3 * (w : Int) → w < s.config.memWords →
      completesWithCC (.comp t) (compareCC s.config.cmpMode s.regA (wordAt s (3 * w))) s) ∧
    (∀ g1 g2 : GReg, completesWithCC (.compr g1.ordinal g2.ordinal)
      (compareCC s.config.cmpMode (s.reg g1) (s.reg g2)) s) ∧
    (∀ i ∈ [Instr.compf t, .comp t], misaligned (targetEa t s) →
      exec i s = .fault (.engine (.alignmentFault (targetEa t s)))) ∧
    (outside s 1 (targetEa t s) → exec (.compf t) s = .fault (.engine (.memoryBoundsFault (targetEa t s)))) ∧
    (outside s 0 (targetEa t s) → exec (.comp t) s = .fault (.engine (.memoryBoundsFault (targetEa t s)))) ∧
    (∀ r1 r2 : Int,
      (badOrdinal r1 → exec (.compr r1 r2) s = .fault (.engine (.invalidRegisterOrdinalFault r1))) ∧
      (¬ badOrdinal r1 → badOrdinal r2 → exec (.compr r1 r2) s = .fault (.engine (.invalidRegisterOrdinalFault r2))))

/-- R157, R158: FIX puts F[23:0] into A, FLOAT puts A sign-extended into F; neither writes CC. -/
def Obligations.FixNarrowsAndFloatWidens : Prop :=
  ∀ s : State,
    completesMove .fix .a (s.regF.extractLsb' 0 24) s ∧
    ∃ u, exec .float s = .next u ∧ u.regF = s.regA.signExtend 48 ∧ u.pc = s.pc ∧ sameMem s u ∧
      Leaves [] .float .ok none none none s u

/-- R158: FIX after FLOAT gives back A exactly. -/
def Obligations.FixAfterFloatRestoresA : Prop :=
  ∀ s : State, ∃ u v, exec .float s = .next u ∧ exec .fix { u with regA := 0 } = .next v ∧ v.regA = s.regA

/-! ### Placeholders (R170 to R180) -/

/-- R170 to R180: each placeholder completes in every state with every operand; nothing of the machine changes, and a
result record marked unimplemented is returned, with some trace. (`n` is the model's own count of traces,
notes/assumptions/4.md.) -/
def Obligations.PlaceholdersChangeNothing : Prop :=
  ∀ (s : State) (f : Form) (k : Int),
    ∀ i ∈ [Instr.norm, .sio, .ssk f, .rd f, .tio, .td f, .svc k, .wd f, .lps f, .sti f],
      ∃ (tr : Trace) (n : Nat), exec i s = .next
        { s with
          result := some
            { opcode := i.opcode, operands := fieldOperands i.fields, newCC := none, outcome := .ok, unimpl := true,
              condMet := none, trace := tr }
          freeTraces := n }

/-! ### Control flow (R190 to R197) -/

/-- R191 to R194: J sets PC to the target truncated to 24 bits, aligned or not, inside memory or not; JEQ, JLT and JGT do
so exactly when SW[1:0] is 0, 1 or 2, and otherwise leave PC; nothing else changes. -/
def Obligations.JumpsSetOnlyPC : Prop :=
  ∀ (t : Target) (s : State),
    completesJump (.j t) [] (trunc 24 (targetEa t s)) none s ∧
    ∀ p ∈ [(Instr.jeq t, (0 : BitVec 2)), (.jlt t, 1), (.jgt t, 2)],
      (s.sw.extractLsb' 0 2 = p.2 → completesJump p.1 [] (trunc 24 (targetEa t s)) (some true) s) ∧
      (s.sw.extractLsb' 0 2 ≠ p.2 → completesJump p.1 [] s.pc (some false) s)

/-- R195, R196: JSUB saves PC into L and jumps; RSUB sets PC to L, and with L = 0 sets PC to 0 with the outcome Halt. L is
not written by RSUB, and nothing else changes. -/
def Obligations.SubroutineCallAndReturn : Prop :=
  ∀ (t : Target) (f : Form) (s : State),
    completesJump (.jsub t) [.l] (trunc 24 (targetEa t s)) none s ∧
    (s.regL ≠ 0 → completesJump (.rsub f) [] s.regL none s) ∧
    (s.regL = 0 → ∃ u, exec (.rsub f) s = .next u ∧ u.pc = 0 ∧ u.regF = s.regF ∧ sameMem s u ∧
      Leaves [] (.rsub f) .halt none none none s u)

/-- A call and its return through the control loop (R195, R350): the step of a JSUB leaves the address after it in L and
PC at the target; a later step of an RSUB, with that L not 0, goes to that address. -/
def Obligations.CallSavesTheReturnAddress : Prop :=
  ∀ (s : State) (t : Target) (len : Nat), s.status = .running → fetchDecode s = .ok (.jsub t, len) →
    ∃ u, step s = .next u ∧ u.status = .running ∧ u.regL.toNat = (s.pc.toNat + len) % 2 ^ 24 ∧
      u.pc = trunc 24 (targetEa t (s.advance len)) ∧ sameMem s u ∧
      ∀ (v : State) (f : Form) (len' : Nat), v.status = .running → v.regL = u.regL → v.regL ≠ 0 →
        fetchDecode v = .ok (.rsub f, len') →
        ∃ x, step v = .next x ∧ x.status = .running ∧ x.pc.toNat = (s.pc.toNat + len) % 2 ^ 24

/-- R92, R93 through the control loop: where the bytes at PC are a J in one of the encoded address forms, the step leaves
PC at the target address of that form, computed from the address after the instruction, B and X, modulo 2^24. -/
def Obligations.JumpReachesTheEncodedTarget : Prop :=
  ∀ (s : State) (t : Target) (len : Nat), s.status = .running → fetchDecode s = .ok (.j t, len) →
    ∃ u, step s = .next u ∧ u.status = .running ∧
      let x (b : Bool) : Int := if b then (s.regX.toNat : Int) else 0
      match t with
      | .direct b d => len = 3 ∧ (u.pc.toNat : Int) = (d.toNat + x b) % 2 ^ 24
      | .pcRelative b d => len = 3 ∧ (u.pc.toNat : Int) = (s.pc.toNat + len + d.toInt + x b) % 2 ^ 24
      | .baseRelative b d => len = 3 ∧ (u.pc.toNat : Int) = (s.regB.toNat + d.toNat + x b) % 2 ^ 24
      | .extended b a => len = 4 ∧ (u.pc.toNat : Int) = (a.toNat + x b) % 2 ^ 24
      | .resolved _ _ => False

/-! ### Loads and stores (R210 to R227) -/

/-- R210 to R216: a word load moves the word at an aligned address inside memory into its register, and nothing else
changes; a misaligned address faults, then one outside memory. -/
def Obligations.WordLoadsMoveTheWord : Prop :=
  ∀ (t : Target) (s : State),
    ∀ p ∈ [(Instr.lda t, GReg.a), (.ldb t, .b), (.ldl t, .l), (.lds t, .s), (.ldt t, .t), (.ldx t, .x)],
      (∀ w : Nat, targetEa t s = 3 * (w : Int) → w < s.config.memWords →
        completesMove p.1 p.2 (wordAt s (3 * w)) s) ∧
      (misaligned (targetEa t s) → exec p.1 s = .fault (.engine (.alignmentFault (targetEa t s)))) ∧
      (outside s 0 (targetEa t s) → exec p.1 s = .fault (.engine (.memoryBoundsFault (targetEa t s))))

/-- R217 to R223: a word store puts its register's three bytes, the most significant first, at an aligned address inside
memory, and nothing else changes; a misaligned address faults, then one outside memory. -/
def Obligations.WordStoresWriteTheWord : Prop :=
  ∀ (t : Target) (s : State),
    ∀ p ∈ [(Instr.sta t, GReg.a), (.stb t, .b), (.stl t, .l), (.sts t, .s), (.stt t, .t), (.stx t, .x)],
      (∀ w : Nat, targetEa t s = 3 * (w : Int) → w < s.config.memWords →
        completesStore p.1 (3 * w)
          [(s.reg p.2).extractLsb' 16 8, (s.reg p.2).extractLsb' 8 8, (s.reg p.2).extractLsb' 0 8] s) ∧
      (misaligned (targetEa t s) → exec p.1 s = .fault (.engine (.alignmentFault (targetEa t s)))) ∧
      (outside s 0 (targetEa t s) → exec p.1 s = .fault (.engine (.memoryBoundsFault (targetEa t s))))

/-- R224, R225: at an aligned address inside memory LDCH puts byte `CH_LANE` of the word into A[7:0], keeping or zeroing
A[23:8] as `LDCH_UPPER` says, and STCH stores A[7:0] into that one byte; both fault on an address that is no multiple of
3, then on one outside memory. -/
def Obligations.CharacterLoadAndStore : Prop :=
  ∀ (t : Target) (s : State),
    (∀ w : Nat, targetEa t s = 3 * (w : Int) → w < s.config.memWords →
      let b := s.mem.read (3 * w + s.config.chLane.val)
      (s.config.ldchUpper = .preserve → completesMove (.ldch t) .a (s.regA.extractLsb' 8 16 ++ b) s) ∧
      (s.config.ldchUpper = .zero → completesMove (.ldch t) .a (b.setWidth 24) s) ∧
      completesStore (.stch t) (3 * w + s.config.chLane.val) [s.regA.extractLsb' 0 8] s) ∧
    (∀ i ∈ [Instr.ldch t, .stch t],
      (misaligned (targetEa t s) → exec i s = .fault (.engine (.alignmentFault (targetEa t s)))) ∧
      (outside s 0 (targetEa t s) → exec i s = .fault (.engine (.memoryBoundsFault (targetEa t s)))))

/-- R226, R227: with both words inside memory LDF puts the six bytes at an aligned address into F, and STF puts F's six
bytes there, the most significant first; nothing else changes; a misaligned address faults, then one where either word is
outside. -/
def Obligations.ExtendedLoadAndStore : Prop :=
  ∀ (t : Target) (s : State),
    (∀ w : Nat, targetEa t s = 3 * (w : Int) → w + 1 < s.config.memWords →
      (∃ u, exec (.ldf t) s = .next u ∧ u.regF = word48At s (3 * w) ∧ u.pc = s.pc ∧ sameMem s u ∧
        Leaves [] (.ldf t) .ok none none none s u) ∧
      completesStore (.stf t) (3 * w)
        [s.regF.extractLsb' 40 8, s.regF.extractLsb' 32 8, s.regF.extractLsb' 24 8, s.regF.extractLsb' 16 8,
         s.regF.extractLsb' 8 8, s.regF.extractLsb' 0 8] s) ∧
    (∀ i ∈ [Instr.ldf t, .stf t],
      (misaligned (targetEa t s) → exec i s = .fault (.engine (.alignmentFault (targetEa t s)))) ∧
      (outside s 1 (targetEa t s) → exec i s = .fault (.engine (.memoryBoundsFault (targetEa t s)))))

/-- R217: a store followed by the load of the same register at the same effective address restores it exactly, for each
register pair and for F (R227), whatever has happened to the registers in between. LDCH after STCH brings back A's low
byte: under `Preserve` beside the A[23:8] there is by then, so that A is what it was if it has not changed (R225), and
under `Zero` beside zeros. -/
def Obligations.StoreThenLoadRestores : Prop :=
  ∀ (t t' : Target) (s u v : State), s.mem.wf = true → v.mem = u.mem → v.config = s.config →
    targetEa t' v = targetEa t s →
    (∀ p ∈ [(Instr.sta t, Instr.lda t', GReg.a), (.stb t, .ldb t', .b), (.stl t, .ldl t', .l), (.sts t, .lds t', .s),
        (.stt t, .ldt t', .t), (.stx t, .ldx t', .x)], exec p.1 s = .next u →
      ∃ x, exec p.2.1 v = .next x ∧ x.reg p.2.2 = s.reg p.2.2) ∧
    (exec (.stf t) s = .next u → ∃ x, exec (.ldf t') v = .next x ∧ x.regF = s.regF) ∧
    (exec (.stch t) s = .next u → ∃ x, exec (.ldch t') v = .next x ∧
      (s.config.ldchUpper = .preserve → x.regA = v.regA.extractLsb' 8 16 ++ s.regA.extractLsb' 0 8 ∧
        (v.regA = s.regA → x.regA = s.regA)) ∧
      (s.config.ldchUpper = .zero → x.regA = (s.regA.extractLsb' 0 8).setWidth 24))

/-! ### Clear, move, shifts, index tests -/

/-- R240, R253: CLEAR sets its register to zero and RMO copies r1 into r2, without CC; a bad r1 faults, then a bad r2. -/
def Obligations.ClearAndRegisterMove : Prop :=
  ∀ s : State,
    (∀ g : GReg, completesMove (.clear g.ordinal) g 0 s) ∧
    (∀ g1 g2 : GReg, completesMove (.rmo g1.ordinal g2.ordinal) g2 (s.reg g1) s) ∧
    (∀ r1 r2 : Int,
      (badOrdinal r1 → exec (.clear r1) s = .fault (.engine (.invalidRegisterOrdinalFault r1)) ∧
        exec (.rmo r1 r2) s = .fault (.engine (.invalidRegisterOrdinalFault r1))) ∧
      (¬ badOrdinal r1 → badOrdinal r2 → exec (.rmo r1 r2) s = .fault (.engine (.invalidRegisterOrdinalFault r2))))

/-- R251, R252: SHIFTL and SHIFTR by any count n: the unsigned value times 2^n truncated, or divided by 2^n, into the
register, and its sign into CC; a count of 24 or more gives 0 (R250); a bad ordinal faults. -/
def Obligations.ShiftsByAnyCount : Prop :=
  ∀ (s : State) (n : Nat),
    (∀ g : GReg,
      let l : Word := trunc 24 (((s.reg g).toNat : Int) * 2 ^ n)
      let r : Word := trunc 24 (((s.reg g).toNat : Int) / 2 ^ n)
      completesInto (.shiftl g.ordinal n) g l none s ∧
      completesInto (.shiftr g.ordinal n) g r none s ∧
      (24 ≤ n → l = 0 ∧ r = 0)) ∧
    (∀ r1 : Int, badOrdinal r1 →
      exec (.shiftl r1 n) s = .fault (.engine (.invalidRegisterOrdinalFault r1)) ∧
      exec (.shiftr r1 n) s = .fault (.engine (.invalidRegisterOrdinalFault r1)))

/-- R260, R261: TIX and TIXR increment X, wrapping, and write CC with the comparison of the new X against the operand
word or the register, which for X itself is the new X; a bad address or ordinal faults. -/
def Obligations.IndexTestsCountAndCompare : Prop :=
  ∀ (t : Target) (s : State),
    let x' : Word := trunc 24 (s.regX.toInt + 1)
    let counts (i : Instr) (c : CC) : Prop :=
      ∃ u, exec i s = .next u ∧ u.regX = x' ∧ u.pc = s.pc ∧ u.regF = s.regF ∧ sameMem s u ∧
        Leaves [.x] i .ok (some c) none none s u
    (∀ w : Nat, targetEa t s = 3 * (w : Int) → w < s.config.memWords →
      counts (.tix t) (compareCC s.config.cmpMode x' (wordAt s (3 * w)))) ∧
    (∀ g : GReg, g ≠ .x → counts (.tixr g.ordinal) (compareCC s.config.cmpMode x' (s.reg g))) ∧
    counts (.tixr 1) .eq ∧
    (misaligned (targetEa t s) → exec (.tix t) s = .fault (.engine (.alignmentFault (targetEa t s)))) ∧
    (outside s 0 (targetEa t s) → exec (.tix t) s = .fault (.engine (.memoryBoundsFault (targetEa t s)))) ∧
    (∀ r1 : Int, badOrdinal r1 → exec (.tixr r1) s = .fault (.engine (.invalidRegisterOrdinalFault r1)))

/-- R260's loop property: n TIX in a row against one memory word, at an address that X does not move, increase X by n and
leave memory alone; in `Exact` mode and while X does not wrap, CC after them is the sign of X + n minus the bound. -/
def Obligations.RepeatedTixCounts : Prop :=
  ∀ (t : Target) (s : State) (w n : Nat), targetIndexed t = false → targetEa t s = 3 * (w : Int) →
    w < s.config.memWords →
    ∃ u, execTimes (.tix t) n s = .next u ∧ u.regX = s.regX + BitVec.ofNat 24 n ∧ u.mem = s.mem ∧
      u.config = s.config ∧ u.pc = s.pc ∧
      (s.config.cmpMode = .exact → 1 ≤ n → s.regX.toInt + n < 2 ^ 23 →
        u.sw = swWithCC s.sw (some (signCC (s.regX.toInt + n - (wordAt s (3 * w)).toInt))))

/-! ### The ALU and the condition code -/

/-- R112, R113, R114, R117, R250: at every width the ALU's integer laws are those of two's-complement bit vectors;
so the product has the same bits read signed or unsigned, the overflowing quotient wraps, and a shift by the width or
more gives 0. -/
def Obligations.AluIsTwosComplement : Prop :=
  ∀ (w : Nat) (a b : BitVec w) (n : Nat),
    addW a b = a + b ∧ subW a b = a - b ∧ mulW a b = a * b ∧
    mulW a b = trunc w ((a.toNat : Int) * b.toNat) ∧
    (b ≠ 0 → divW a b = BitVec.sdiv a b) ∧
    shiftLeftW a n = a <<< n ∧ shiftRightW a n = a >>> n ∧ (w ≤ n → shiftLeftW a n = 0 ∧ shiftRightW a n = 0)

/-- The sign table of R114 at 24 bits. -/
def Obligations.DivisionSignTable : Prop :=
  divW (0x000007 : Word) 0x000002 = 0x000003 ∧ divW (0xFFFFF9 : Word) 0x000002 = 0xFFFFFD ∧
  divW (0x000007 : Word) 0xFFFFFE = 0xFFFFFD ∧ divW (0xFFFFF9 : Word) 0xFFFFFE = 0x000003 ∧
  divW (0x000001 : Word) 0x000002 = 0x000000 ∧ divW (0xFFFFFF : Word) 0x000002 = 0x000000 ∧
  divW (0x000000 : Word) 0x000005 = 0x000000 ∧ divW (0x800000 : Word) 0xFFFFFF = 0x800000 ∧
  divW (0x800000 : Word) 0x000001 = 0x800000 ∧
  (∀ (op : Opcode) (a : Word), divide op a 0 = .error (.divideByZeroFault op))

/-- R31: the two comparison modes give the same condition code unless the difference is at least 2^(w-1) in size, and the
exact one is the signed order. -/
def Obligations.CompareModesAgreeInHalfRange : Prop :=
  ∀ (w : Nat) (a b : BitVec (w + 1)),
    (ccCmp .exact a b = .eq ↔ a = b) ∧ (ccCmp .exact a b = .lt ↔ a.toInt < b.toInt) ∧
    (ccCmp .exact a b = .gt ↔ b.toInt < a.toInt) ∧
    (|a.toInt - b.toInt| < 2 ^ w → ccCmp .wrapped a b = ccCmp .exact a b)

/-- R11, R22, R23: a register written by name with an integer reads as that integer truncated to the register's width,
and the other eight read as before. -/
def Obligations.NamedRegisterWriteTruncates : Prop :=
  ∀ (r r' : RegName) (n : Int) (s : State),
    (s.writeNamed r n).readNamed r = (if r = .f then (trunc 48 n).toInt else (trunc 24 n).toInt) ∧
    (r' ≠ r → (s.writeNamed r n).readNamed r' = s.readNamed r')

/-! ### Records and traces -/

/-- The loop's instructions and the engine's records agree (R80, R91, R94): executing the record the decode stage hands
over for an instruction is executing the instruction, for every instruction and state; where that faults, the result
record says so and nothing else is new (R306, R320; `n` is the model's own count of traces, notes/assumptions/4.md). -/
def Obligations.ExecuteOfTheRecordIsExec : Prop :=
  ∀ (i : Instr) (s : State),
    (∀ u, exec i s = .next u → execute (record i s) s = .next u) ∧
    (∀ f, exec i s = .fault (.engine f) → ∃ (tr : Trace) (n : Nat), execute (record i s) s = .next
      { s with
        result := some
          { opcode := i.opcode, operands := fieldOperands i.fields, newCC := none, outcome := .fault f,
            unimpl := isPlaceholder i.opcode, condMet := none, trace := tr }
        freeTraces := n })

/-- Every execute of a record that is not refused returns a result record (R300, R320), hand-built records and faults
included: the record's opcode and operand list, whether the opcode is a placeholder, whether a conditional jump is taken,
the CC written, and one outcome. After a fault the record alone is new: no register, byte, parameter or status differs,
and no CC is written (R306). That a fault's condMet is none is DEDUCED (notes/assumptions/13.md). -/
def Obligations.EveryExecuteReturnsItsRecord : Prop :=
  ∀ (r : Record) (s : State),
    (∃ e, execute r s = .refused e) ∨
    ∃ u x, execute r s = .next u ∧ u.result = some x ∧ x.opcode = r.opcode ∧ x.operands = r.operands ∧
      (x.unimpl = true ↔
        r.opcode ∈ [Opcode.norm, .sio, .ssk, .rd, .tio, .td, .svc, .wd, .lps, .sti]) ∧
      (x.condMet =
        if r.opcode = .jeq then some (decide (s.sw.extractLsb' 0 2 = 0))
        else if r.opcode = .jlt then some (decide (s.sw.extractLsb' 0 2 = 1))
        else if r.opcode = .jgt then some (decide (s.sw.extractLsb' 0 2 = 2))
        else none) ∧
      u.sw = swWithCC s.sw x.newCC ∧
      match x.outcome with
      | .ok => ¬ (r.opcode = .rsub ∧ s.regL = 0)
      | .halt => r.opcode = .rsub ∧ s.regL = 0 ∧ u.pc = 0
      | .fault _ => x.newCC = none ∧ (∀ g : RegName, u.readNamed g = s.readNamed g) ∧ u.mem = s.mem ∧
          u.config = s.config ∧ u.status = s.status

/-- The loop calls the engine with the decoded record (R350): a step whose bytes decode executes the record with PC
advanced, and acts on the outcome in the result record: Ok keeps the state, Halt sets status Halted, a fault sets PC back
and status Faulted. -/
def Obligations.StepExecutesTheDecodedRecord : Prop :=
  ∀ (s : State) (i : Instr) (len : Nat), s.status = .running → fetchDecode s = .ok (i, len) →
    ∃ u x, execute (record i (s.advance len)) (s.advance len) = .next u ∧ u.result = some x ∧
      match x.outcome with
      | .ok => step s = .next u
      | .halt => step s = .next { u with status := .halted }
      | .fault f => step s = .next { u with pc := s.pc, status := .faulted f }

/-- R83, R85, R250: a record is refused exactly when its operand list is shorter than its shape reads or its shift count
is negative. -/
def Obligations.RecordsRefusedExactly : Prop :=
  ∀ (r : Record) (s : State),
    (∃ e, execute r s = .refused e) ↔
      (r.opcode ∈ [Opcode.addr, .subr, .mulr, .divr, .compr, .rmo, .shiftl, .shiftr] ∧ r.operands.length < 2) ∨
      (r.opcode ∈ [Opcode.clear, .tixr] ∧ r.operands.length < 1) ∨
      (r.opcode ∈ [Opcode.shiftl, .shiftr] ∧ ∃ r1 n rest, r.operands = r1 :: n :: rest ∧ n < 0)

/-- R83, R241, D26: extra operands of a record change nothing but the operand list the result record repeats. -/
def Obligations.ExtraOperandsAreIgnored : Prop :=
  ∀ (r : Record) (s : State) (extra : List Int),
    (r.opcode ∈ [Opcode.addr, .subr, .mulr, .divr, .compr, .rmo, .shiftl, .shiftr] → 2 ≤ r.operands.length) →
    (r.opcode ∈ [Opcode.clear, .tixr] → 1 ≤ r.operands.length) →
    execute { r with operands := r.operands ++ extra } s =
      mapNext (State.withOperands (r.operands ++ extra)) (execute r s)

/-- R321: a hexadecimal trace has exactly the digits asked for, each one of 0 to 9 and A to F, and they spell the value;
the text of a result is the mnemonic, ": Resultado = " and 6 or 12 such digits of the stored result. -/
def Obligations.TraceTextIsFixedWidthHex : Prop :=
  (∀ k v : Nat, (hexDigits k v).length = k ∧ (∀ c ∈ hexDigits k v, c ∈ "0123456789ABCDEF".toList) ∧
    (hexDigits k v).foldl (fun n c => 16 * n + "0123456789ABCDEF".toList.idxOf c) 0 = v % 16 ^ k) ∧
  (∀ (op : Opcode) (r : Word), (Trace.word op r).text =
    mnemonic op ++ ": Resultado = " ++ String.ofList (hexDigits 6 r.toNat)) ∧
  (∀ (op : Opcode) (r : Word48), (Trace.word48 op r).text =
    mnemonic op ++ ": Resultado = " ++ String.ofList (hexDigits 12 r.toNat))
end

