-- ==== Sys2Proof/Laws/Decode.lean ====
section
/-! SUPPORT. The opcode map, and the bytes an encoding has: its first byte selects its opcode, and its length is the
format's. -/

namespace Sys2Proof

/-- The bits n and i are no opcode bits of a format-3/4 opcode (R89). -/
theorem selectOpcode_mem (op : Opcode) (mk : Target → Instr) (h : builder op = .mem mk) :
    selectOpcode (opcodeByte op ||| 3) = some op := by
  cases op <;> first | rfl | cases h

/-- The first byte of a loose form selects its opcode, whatever n and i are (R89, R97). -/
theorem selectOpcode_loose (op : Opcode) (mk : Form → Instr) (h : builder op = .loose mk) :
    selectOpcode (opcodeByte op) = some op ∧ selectOpcode (opcodeByte op ||| 1) = some op ∧
      selectOpcode (opcodeByte op ||| 2) = some op ∧ selectOpcode (opcodeByte op ||| 3) = some op := by
  cases op <;> first | (exact ⟨rfl, rfl, rfl, rfl⟩) | cases h

/-- Every opcode byte selects its own opcode (R84, R89). -/
theorem selectOpcode_opcodeByte (op : Opcode) : selectOpcode (opcodeByte op) = some op := by
  cases op <;> rfl

/-- The first byte of a target's encoding. -/
theorem encodeTarget_head {b0 : Byte} {t : Target} (h : t.wellFormed = true) :
    (encodeTarget b0 t).head? = some b0 := by
  cases t <;> first | rfl | cases h

/-- The number of bytes of a target's encoding: 3, or 4 in format 4 (R88). -/
theorem encodeTarget_length {b0 : Byte} {t : Target} (h : t.wellFormed = true) :
    (encodeTarget b0 t).length = 3 ∨ (encodeTarget b0 t).length = 4 := by
  cases t <;> first | exact .inl rfl | exact .inr rfl | cases h

/-- The first byte of a loose form's encoding selects the opcode (R97). -/
theorem encodeForm_head {op : Opcode} {mk : Form → Instr} (hb : builder op = .loose mk) {f : Form}
    (h : f.wellFormed = true) : ∃ b, (encodeForm (opcodeByte op) f).head? = some b ∧ selectOpcode b = some op := by
  obtain ⟨h0, h1, h2, h3⟩ := selectOpcode_loose op mk hb
  cases f with
  | simple t => exact ⟨_, encodeTarget_head h, h3⟩
  | immediate t => exact ⟨_, encodeTarget_head h, h1⟩
  | indirect t => exact ⟨_, encodeTarget_head h, h2⟩
  | sic x a => exact ⟨_, rfl, h0⟩

/-- The number of bytes of a loose form's encoding (R88, R90). -/
theorem encodeForm_length {b0 : Byte} {f : Form} (h : f.wellFormed = true) :
    (encodeForm b0 f).length = 3 ∨ (encodeForm b0 f).length = 4 := by
  cases f with
  | simple t => exact encodeTarget_length h
  | immediate t => exact encodeTarget_length h
  | indirect t => exact encodeTarget_length h
  | sic x a => exact .inl rfl

end Sys2Proof
end

