-- ==== Sys2Proof/Laws/Memory.lean ====
section
/-! SUPPORT. The laws of memory: a read after a write, the canonical form and the bound that every memory operation
keeps, words of bytes, and when a checked access succeeds. -/

namespace Sys2Proof.Machine

/-! ### Bytes -/

theorem Memory.wf_cons {a : Nat} {v : Byte} {m : Memory} :
    Memory.wf ((a, v) :: m) = true ↔ (∀ c ∈ m, a < c.1) ∧ v ≠ unlistedByte ∧ m.wf = true := by
  simp [Memory.wf, and_assoc]

/-- An address that is not listed reads as `unlistedByte`. -/
theorem Memory.read_unlisted {m : Memory} {a : Nat} (h : ∀ c ∈ m, c.1 ≠ a) : m.read a = unlistedByte := by
  induction m with
  | nil => rfl
  | cons c m ih =>
    obtain ⟨b, u⟩ := c
    have hb : b ≠ a := h (b, u) (by simp)
    simp only [Memory.read, if_neg hb]
    exact ih fun c hc => h c (by simp [hc])

/-- A write leaves every other address alone. -/
theorem Memory.read_write_other (m : Memory) {a b : Nat} (v : Byte) (hne : b ≠ a) :
    (m.write a v).read b = m.read b := by
  have hne' : a ≠ b := fun h => hne h.symm
  induction m with
  | nil => by_cases hv : v = unlistedByte <;> simp [Memory.write, Memory.read, hv, hne']
  | cons c m ih =>
    obtain ⟨d, u⟩ := c
    simp only [Memory.write]
    split_ifs with h1 h2 h3 h4
    · simp only [Memory.read, ih]
    · subst h2; simp [Memory.read, hne']
    · subst h2; simp [Memory.read, hne']
    · rfl
    · simp [Memory.read, hne']

/-- In canonical memory a read after a write to the same address gives the byte written. -/
theorem Memory.read_write_same {m : Memory} (a : Nat) (v : Byte) (hwf : m.wf = true) :
    (m.write a v).read a = v := by
  induction m with
  | nil => by_cases hv : v = unlistedByte <;> simp [Memory.write, Memory.read, hv]
  | cons c m ih =>
    obtain ⟨d, u⟩ := c
    obtain ⟨hlt, _, hm⟩ := Memory.wf_cons.1 hwf
    simp only [Memory.write]
    split_ifs with h1 h2 h3 h4
    · have : d ≠ a := by omega
      simp [Memory.read, this, ih hm]
    · subst h2; rw [h3]
      exact Memory.read_unlisted fun c hc => by have := hlt c hc; omega
    · simp [Memory.read]
    · rw [h4]
      refine Memory.read_unlisted fun c hc => ?_
      rcases List.mem_cons.1 hc with rfl | hc
      · exact h2
      · have := hlt c hc; omega
    · simp [Memory.read]

/-- Every entry of a written memory was there before, or is the one written. -/
theorem Memory.mem_write {m : Memory} {a : Nat} {v : Byte} {c : Host.Cell} (h : c ∈ m.write a v) :
    c = (a, v) ∨ c ∈ m := by
  induction m with
  | nil =>
    simp only [Memory.write] at h
    split_ifs at h <;> simp_all
  | cons d m ih =>
    obtain ⟨d, u⟩ := d
    simp only [Memory.write] at h
    split_ifs at h with h1 h2 h3 h4
    · rcases List.mem_cons.1 h with rfl | h
      · simp
      · rcases ih h with h | h <;> simp [h]
    · simp [h]
    · rcases List.mem_cons.1 h with rfl | h <;> simp [*]
    · simp [List.mem_cons.1 h]
    · rcases List.mem_cons.1 h with rfl | h <;> simp_all

/-- A write keeps the canonical form. -/
theorem Memory.wf_write {m : Memory} (a : Nat) (v : Byte) (hwf : m.wf = true) : (m.write a v).wf = true := by
  induction m with
  | nil => by_cases hv : v = unlistedByte <;> simp [Memory.write, Memory.wf, hv]
  | cons c m ih =>
    obtain ⟨d, u⟩ := c
    obtain ⟨hlt, hu, hm⟩ := Memory.wf_cons.1 hwf
    simp only [Memory.write]
    split_ifs with h1 h2 h3 h4
    · refine Memory.wf_cons.2 ⟨fun c hc => ?_, hu, ih hm⟩
      rcases Memory.mem_write hc with rfl | hc
      · exact h1
      · exact hlt c hc
    · exact hm
    · subst h2; exact Memory.wf_cons.2 ⟨hlt, h3, hm⟩
    · exact hwf
    · refine Memory.wf_cons.2 ⟨fun c hc => ?_, h4, hwf⟩
      rcases List.mem_cons.1 hc with rfl | hc
      · show a < d
        omega
      · have := hlt c hc; omega

/-- A write inside a bound keeps every entry inside it. -/
theorem Memory.below_write {m : Memory} {n a : Nat} (v : Byte) (ha : a < n) (h : m.below n = true) :
    (m.write a v).below n = true := by
  simp only [Memory.below, List.all_eq_true, decide_eq_true_eq] at *
  intro c hc
  rcases Memory.mem_write hc with rfl | hc
  · exact ha
  · exact h c hc

/-! ### Words -/

theorem Memory.wf_setWord {m : Memory} (a : Nat) (v : Word) (h : m.wf = true) : (m.setWord a v).wf = true :=
  Memory.wf_write _ _ (Memory.wf_write _ _ (Memory.wf_write _ _ h))

theorem Memory.wf_setWord48 {m : Memory} (a : Nat) (v : Word48) (h : m.wf = true) : (m.setWord48 a v).wf = true :=
  Memory.wf_setWord _ _ (Memory.wf_setWord _ _ h)

theorem Memory.below_setWord {m : Memory} {n a : Nat} (v : Word) (ha : a + 3 ≤ n) (h : m.below n = true) :
    (m.setWord a v).below n = true :=
  Memory.below_write _ (by omega) (Memory.below_write _ (by omega) (Memory.below_write _ (by omega) h))

theorem Memory.below_setWord48 {m : Memory} {n a : Nat} (v : Word48) (ha : a + 6 ≤ n) (h : m.below n = true) :
    (m.setWord48 a v).below n = true :=
  Memory.below_setWord _ (by omega) (Memory.below_setWord _ (by omega) h)

/-- A word write leaves every byte outside the word alone (R59). -/
theorem Memory.read_setWord_other (m : Memory) {a b : Nat} (v : Word) (hb : b < a ∨ a + 3 ≤ b) :
    (m.setWord a v).read b = m.read b := by
  rw [Memory.setWord, Memory.read_write_other _ _ (by omega), Memory.read_write_other _ _ (by omega),
    Memory.read_write_other _ _ (by omega)]

/-- A 48-bit write leaves every byte outside the two words alone (R59). -/
theorem Memory.read_setWord48_other (m : Memory) {a b : Nat} (v : Word48) (hb : b < a ∨ a + 6 ≤ b) :
    (m.setWord48 a v).read b = m.read b := by
  rw [Memory.setWord48, Memory.read_setWord_other _ _ (by omega), Memory.read_setWord_other _ _ (by omega)]

/-- The bytes of a word written, big-endian (R55). -/
theorem Memory.read_setWord {m : Memory} (a : Nat) (v : Word) (h : m.wf = true) :
    (m.setWord a v).read a = v.extractLsb' 16 8 ∧ (m.setWord a v).read (a + 1) = v.extractLsb' 8 8 ∧
      (m.setWord a v).read (a + 2) = v.extractLsb' 0 8 := by
  have h1 := Memory.wf_write a (v.extractLsb' 16 8) h
  have h2 := Memory.wf_write (a + 1) (v.extractLsb' 8 8) h1
  refine ⟨?_, ?_, Memory.read_write_same _ _ h2⟩
  · rw [Memory.setWord, Memory.read_write_other _ _ (by omega), Memory.read_write_other _ _ (by omega),
      Memory.read_write_same _ _ h]
  · rw [Memory.setWord, Memory.read_write_other _ _ (by omega), Memory.read_write_same _ _ h1]

/-- The three bytes of a word put together again. -/
theorem bytes_append (v : Word) : v.extractLsb' 16 8 ++ v.extractLsb' 8 8 ++ v.extractLsb' 0 8 = v := by
  refine BitVec.eq_of_getLsbD_eq fun i hi => ?_
  simp only [BitVec.getLsbD_append, BitVec.getLsbD_extractLsb']
  split_ifs with h1 h2
  · simp [h1]
  · rw [show 8 + (i - 8) = i by omega]; simp [h2]
  · rw [show 16 + (i - 8 - 8) = i by omega]; simp [show i - 8 - 8 < 8 by omega]

/-- The two words of a 48-bit value put together again. -/
theorem words_append (v : Word48) : v.extractLsb' 24 24 ++ v.extractLsb' 0 24 = v := by
  refine BitVec.eq_of_getLsbD_eq fun i hi => ?_
  simp only [BitVec.getLsbD_append, BitVec.getLsbD_extractLsb']
  split_ifs with h1
  · simp [h1]
  · rw [show 24 + (i - 24) = i by omega]; simp [show i - 24 < 24 by omega]

/-- A word read after a word write at the same address gives the word written. -/
theorem Memory.word_setWord {m : Memory} (a : Nat) (v : Word) (h : m.wf = true) : (m.setWord a v).word a = v := by
  obtain ⟨h0, h1, h2⟩ := Memory.read_setWord a v h
  rw [Memory.word, h0, h1, h2, bytes_append]

/-- A word read elsewhere is not changed by a word write. -/
theorem Memory.word_setWord_other (m : Memory) {a b : Nat} (v : Word) (hb : b + 3 ≤ a ∨ a + 3 ≤ b) :
    (m.setWord a v).word b = m.word b := by
  simp only [Memory.word]
  rw [Memory.read_setWord_other _ _ (by omega), Memory.read_setWord_other _ _ (by omega),
    Memory.read_setWord_other _ _ (by omega)]

/-- A 48-bit read after a 48-bit write at the same address gives the value written. -/
theorem Memory.word48_setWord48 {m : Memory} (a : Nat) (v : Word48) (h : m.wf = true) :
    (m.setWord48 a v).word48 a = v := by
  simp only [Memory.word48, Memory.setWord48]
  rw [Memory.word_setWord_other _ _ (by omega), Memory.word_setWord _ _ h,
    Memory.word_setWord _ _ (Memory.wf_setWord _ _ h), words_append]

/-! ### The loader's bytes -/

theorem storeBytes_wf (size : Nat) : ∀ (l : List Byte) (a : Nat) (m : Memory), m.wf = true →
    (storeBytes size a l m).wf = true
  | [], _, _, h => h
  | v :: l, a, m, h => by
    unfold storeBytes
    refine storeBytes_wf size l (a + 1) _ ?_
    split_ifs
    · exact Memory.wf_write _ _ h
    · exact h

theorem storeBytes_below (size : Nat) : ∀ (l : List Byte) (a : Nat) (m : Memory), m.below size = true →
    (storeBytes size a l m).below size = true
  | [], _, _, h => h
  | v :: l, a, m, h => by
    unfold storeBytes
    refine storeBytes_below size l (a + 1) _ ?_
    split_ifs with ha
    · exact Memory.below_write _ ha h
    · exact h

/-! ### Checked accesses (R53 to R61) -/

/-- A checked access succeeds exactly on an aligned address whose words all lie in memory, and gives that address. -/
theorem access_eq_ok {s : State} {extra : Nat} {ea : Int} {a : Nat} :
    s.access extra ea = .ok a ↔ ea = a ∧ ea % 3 = 0 ∧ a / 3 + extra < s.config.memWords := by
  simp only [State.access, wordAddr]
  by_cases h : ea % 3 = 0
  · simp only [h, ne_eq, not_true_eq_false, if_false, true_and]
    by_cases hb : 0 ≤ ea / 3 ∧ ea / 3 + extra < s.config.memWords
    · simp only [if_pos hb, Except.ok.injEq]
      omega
    · simp only [if_neg hb, reduceCtorEq, false_iff]
      omega
  · simp [h]

/-- A misaligned access faults, whatever else holds (R60, R61). -/
theorem access_misaligned (s : State) (extra : Nat) {ea : Int} (h : ea % 3 ≠ 0) :
    s.access extra ea = .error (.alignmentFault ea) := by
  simp [State.access, wordAddr, h]

/-- An aligned access outside memory faults (R54, R57). -/
theorem access_outside (s : State) (extra : Nat) {ea : Int} (h : ea % 3 = 0)
    (hb : ea < 0 ∨ (s.memSize : Int) ≤ ea + 3 * extra) : s.access extra ea = .error (.memoryBoundsFault ea) := by
  simp only [State.memSize] at hb
  have hn : ¬ (0 ≤ ea / 3 ∧ ea / 3 + extra < s.config.memWords) := by omega
  simp [State.access, wordAddr, h, hn]

/-- An aligned access inside memory succeeds. -/
theorem access_inside (s : State) (extra w : Nat) (h : w + extra < s.config.memWords) :
    s.access extra ((3 * w : Nat) : Int) = .ok (3 * w) := by
  rw [access_eq_ok]; omega

/-- A failed access is one of the two faults, with its cause (R301, R305). -/
theorem access_eq_error {s : State} {extra : Nat} {ea : Int} {f : EngineFault} (h : s.access extra ea = .error f) :
    (f = .alignmentFault ea ∧ ea % 3 ≠ 0) ∨
      (f = .memoryBoundsFault ea ∧ ea % 3 = 0 ∧ (ea < 0 ∨ (s.memSize : Int) ≤ ea + 3 * extra)) := by
  by_cases h3 : ea % 3 = 0
  · by_cases hb : ea < 0 ∨ (s.memSize : Int) ≤ ea + 3 * extra
    · rw [access_outside s extra h3 hb] at h
      cases h; exact .inr ⟨rfl, h3, hb⟩
    · simp only [State.memSize] at hb
      have : s.access extra ea = .ok ea.toNat := access_eq_ok.2 ⟨by omega, h3, by omega⟩
      rw [this] at h; cases h
  · rw [access_misaligned s extra h3] at h
    cases h; exact .inl ⟨rfl, h3⟩

end Sys2Proof.Machine
end

