-- ==== Sys2Proof/Laws/State.lean ====
section
/-! SUPPORT. What each update of the state leaves in each field: one lemma per field per update, tagged simp, so that no
proof unfolds a record update. -/

namespace Sys2Proof.Machine

/-! ### Registers -/

@[simp] theorem setReg_pc (g : GReg) (v : Word) (s : State) : (s.setReg g v).pc = s.pc := by cases g <;> rfl
@[simp] theorem setReg_sw (g : GReg) (v : Word) (s : State) : (s.setReg g v).sw = s.sw := by cases g <;> rfl
@[simp] theorem setReg_regF (g : GReg) (v : Word) (s : State) : (s.setReg g v).regF = s.regF := by cases g <;> rfl
@[simp] theorem setReg_mem (g : GReg) (v : Word) (s : State) : (s.setReg g v).mem = s.mem := by cases g <;> rfl
@[simp] theorem setReg_config (g : GReg) (v : Word) (s : State) : (s.setReg g v).config = s.config := by cases g <;> rfl
@[simp] theorem setReg_status (g : GReg) (v : Word) (s : State) : (s.setReg g v).status = s.status := by cases g <;> rfl
@[simp] theorem setReg_result (g : GReg) (v : Word) (s : State) : (s.setReg g v).result = s.result := by cases g <;> rfl
@[simp] theorem setReg_freeTraces (g : GReg) (v : Word) (s : State) : (s.setReg g v).freeTraces = s.freeTraces := by cases g <;> rfl

/-- A general register after a write: the new value in the register written, the old one elsewhere (R20). -/
theorem reg_setReg (g h : GReg) (v : Word) (s : State) : (s.setReg g v).reg h = if g = h then v else s.reg h := by
  cases g <;> cases h <;> rfl

@[simp] theorem reg_setReg_same (g : GReg) (v : Word) (s : State) : (s.setReg g v).reg g = v := by cases g <;> rfl

theorem reg_setReg_other {g h : GReg} (hne : g ≠ h) (v : Word) (s : State) : (s.setReg g v).reg h = s.reg h := by
  rw [reg_setReg, if_neg hne]

@[simp] theorem setReg_a (v : Word) (s : State) : s.setReg .a v = { s with regA := v } := rfl
@[simp] theorem setReg_x (v : Word) (s : State) : s.setReg .x v = { s with regX := v } := rfl
@[simp] theorem setReg_l (v : Word) (s : State) : s.setReg .l v = { s with regL := v } := rfl
@[simp] theorem setReg_b (v : Word) (s : State) : s.setReg .b v = { s with regB := v } := rfl
@[simp] theorem setReg_s (v : Word) (s : State) : s.setReg .s v = { s with regS := v } := rfl
@[simp] theorem setReg_t (v : Word) (s : State) : s.setReg .t v = { s with regT := v } := rfl

@[simp] theorem reg_a (s : State) : s.reg .a = s.regA := rfl
@[simp] theorem reg_x (s : State) : s.reg .x = s.regX := rfl
@[simp] theorem reg_l (s : State) : s.reg .l = s.regL := rfl
@[simp] theorem reg_b (s : State) : s.reg .b = s.regB := rfl
@[simp] theorem reg_s (s : State) : s.reg .s = s.regS := rfl
@[simp] theorem reg_t (s : State) : s.reg .t = s.regT := rfl

/-! ### F, PC and the condition code -/

@[simp] theorem setF_regA (v : Word48) (s : State) : (s.setF v).regA = s.regA := rfl
@[simp] theorem setF_regX (v : Word48) (s : State) : (s.setF v).regX = s.regX := rfl
@[simp] theorem setF_regL (v : Word48) (s : State) : (s.setF v).regL = s.regL := rfl
@[simp] theorem setF_regB (v : Word48) (s : State) : (s.setF v).regB = s.regB := rfl
@[simp] theorem setF_regS (v : Word48) (s : State) : (s.setF v).regS = s.regS := rfl
@[simp] theorem setF_regT (v : Word48) (s : State) : (s.setF v).regT = s.regT := rfl
@[simp] theorem setF_pc (v : Word48) (s : State) : (s.setF v).pc = s.pc := rfl
@[simp] theorem setF_sw (v : Word48) (s : State) : (s.setF v).sw = s.sw := rfl
@[simp] theorem setF_regF (v : Word48) (s : State) : (s.setF v).regF = v := rfl
@[simp] theorem setF_mem (v : Word48) (s : State) : (s.setF v).mem = s.mem := rfl
@[simp] theorem setF_config (v : Word48) (s : State) : (s.setF v).config = s.config := rfl
@[simp] theorem setF_status (v : Word48) (s : State) : (s.setF v).status = s.status := rfl
@[simp] theorem setF_result (v : Word48) (s : State) : (s.setF v).result = s.result := rfl
@[simp] theorem setF_freeTraces (v : Word48) (s : State) : (s.setF v).freeTraces = s.freeTraces := rfl

@[simp] theorem setPc_regA (n : Int) (s : State) : (s.setPc n).regA = s.regA := rfl
@[simp] theorem setPc_regX (n : Int) (s : State) : (s.setPc n).regX = s.regX := rfl
@[simp] theorem setPc_regL (n : Int) (s : State) : (s.setPc n).regL = s.regL := rfl
@[simp] theorem setPc_regB (n : Int) (s : State) : (s.setPc n).regB = s.regB := rfl
@[simp] theorem setPc_regS (n : Int) (s : State) : (s.setPc n).regS = s.regS := rfl
@[simp] theorem setPc_regT (n : Int) (s : State) : (s.setPc n).regT = s.regT := rfl
@[simp] theorem setPc_pc (n : Int) (s : State) : (s.setPc n).pc = trunc 24 n := rfl
@[simp] theorem setPc_sw (n : Int) (s : State) : (s.setPc n).sw = s.sw := rfl
@[simp] theorem setPc_regF (n : Int) (s : State) : (s.setPc n).regF = s.regF := rfl
@[simp] theorem setPc_mem (n : Int) (s : State) : (s.setPc n).mem = s.mem := rfl
@[simp] theorem setPc_config (n : Int) (s : State) : (s.setPc n).config = s.config := rfl
@[simp] theorem setPc_status (n : Int) (s : State) : (s.setPc n).status = s.status := rfl
@[simp] theorem setPc_result (n : Int) (s : State) : (s.setPc n).result = s.result := rfl
@[simp] theorem setPc_freeTraces (n : Int) (s : State) : (s.setPc n).freeTraces = s.freeTraces := rfl

@[simp] theorem setCC_regA (c : CC) (s : State) : (s.setCC c).regA = s.regA := rfl
@[simp] theorem setCC_regX (c : CC) (s : State) : (s.setCC c).regX = s.regX := rfl
@[simp] theorem setCC_regL (c : CC) (s : State) : (s.setCC c).regL = s.regL := rfl
@[simp] theorem setCC_regB (c : CC) (s : State) : (s.setCC c).regB = s.regB := rfl
@[simp] theorem setCC_regS (c : CC) (s : State) : (s.setCC c).regS = s.regS := rfl
@[simp] theorem setCC_regT (c : CC) (s : State) : (s.setCC c).regT = s.regT := rfl
@[simp] theorem setCC_pc (c : CC) (s : State) : (s.setCC c).pc = s.pc := rfl
@[simp] theorem setCC_sw (c : CC) (s : State) : (s.setCC c).sw = s.swReserved ++ c.code := rfl
@[simp] theorem setCC_regF (c : CC) (s : State) : (s.setCC c).regF = s.regF := rfl
@[simp] theorem setCC_mem (c : CC) (s : State) : (s.setCC c).mem = s.mem := rfl
@[simp] theorem setCC_config (c : CC) (s : State) : (s.setCC c).config = s.config := rfl
@[simp] theorem setCC_status (c : CC) (s : State) : (s.setCC c).status = s.status := rfl
@[simp] theorem setCC_result (c : CC) (s : State) : (s.setCC c).result = s.result := rfl
@[simp] theorem setCC_freeTraces (c : CC) (s : State) : (s.setCC c).freeTraces = s.freeTraces := rfl

@[simp] theorem setOptCC_regA (c : Option CC) (s : State) : (s.setOptCC c).regA = s.regA := by cases c <;> rfl
@[simp] theorem setOptCC_regX (c : Option CC) (s : State) : (s.setOptCC c).regX = s.regX := by cases c <;> rfl
@[simp] theorem setOptCC_regL (c : Option CC) (s : State) : (s.setOptCC c).regL = s.regL := by cases c <;> rfl
@[simp] theorem setOptCC_regB (c : Option CC) (s : State) : (s.setOptCC c).regB = s.regB := by cases c <;> rfl
@[simp] theorem setOptCC_regS (c : Option CC) (s : State) : (s.setOptCC c).regS = s.regS := by cases c <;> rfl
@[simp] theorem setOptCC_regT (c : Option CC) (s : State) : (s.setOptCC c).regT = s.regT := by cases c <;> rfl
@[simp] theorem setOptCC_pc (c : Option CC) (s : State) : (s.setOptCC c).pc = s.pc := by cases c <;> rfl
@[simp] theorem setOptCC_regF (c : Option CC) (s : State) : (s.setOptCC c).regF = s.regF := by cases c <;> rfl
@[simp] theorem setOptCC_mem (c : Option CC) (s : State) : (s.setOptCC c).mem = s.mem := by cases c <;> rfl
@[simp] theorem setOptCC_config (c : Option CC) (s : State) : (s.setOptCC c).config = s.config := by cases c <;> rfl
@[simp] theorem setOptCC_status (c : Option CC) (s : State) : (s.setOptCC c).status = s.status := by cases c <;> rfl
@[simp] theorem setOptCC_result (c : Option CC) (s : State) : (s.setOptCC c).result = s.result := by cases c <;> rfl
@[simp] theorem setOptCC_freeTraces (c : Option CC) (s : State) : (s.setOptCC c).freeTraces = s.freeTraces := by cases c <;> rfl
@[simp] theorem setOptCC_none (s : State) : s.setOptCC none = s := rfl
@[simp] theorem setOptCC_some (c : CC) (s : State) : s.setOptCC (some c) = s.setCC c := rfl

/-! ### Ending an execute -/

@[simp] theorem report_regA (r : Report) (s : State) : (s.report r).regA = s.regA := rfl
@[simp] theorem report_regX (r : Report) (s : State) : (s.report r).regX = s.regX := rfl
@[simp] theorem report_regL (r : Report) (s : State) : (s.report r).regL = s.regL := rfl
@[simp] theorem report_regB (r : Report) (s : State) : (s.report r).regB = s.regB := rfl
@[simp] theorem report_regS (r : Report) (s : State) : (s.report r).regS = s.regS := rfl
@[simp] theorem report_regT (r : Report) (s : State) : (s.report r).regT = s.regT := rfl
@[simp] theorem report_pc (r : Report) (s : State) : (s.report r).pc = s.pc := rfl
@[simp] theorem report_sw (r : Report) (s : State) : (s.report r).sw = s.sw := rfl
@[simp] theorem report_regF (r : Report) (s : State) : (s.report r).regF = s.regF := rfl
@[simp] theorem report_mem (r : Report) (s : State) : (s.report r).mem = s.mem := rfl
@[simp] theorem report_config (r : Report) (s : State) : (s.report r).config = s.config := rfl
@[simp] theorem report_status (r : Report) (s : State) : (s.report r).status = s.status := rfl
@[simp] theorem report_result (r : Report) (s : State) : (s.report r).result = some (r.result s.freeTraces) := rfl
@[simp] theorem report_freeTraces (r : Report) (s : State) : (s.report r).freeTraces = if r.trace.isNone then s.freeTraces + 1 else s.freeTraces := rfl

@[simp] theorem finish_regA (r : Report) (s : State) : (s.finish r).regA = s.regA := by simp [State.finish]
@[simp] theorem finish_regX (r : Report) (s : State) : (s.finish r).regX = s.regX := by simp [State.finish]
@[simp] theorem finish_regL (r : Report) (s : State) : (s.finish r).regL = s.regL := by simp [State.finish]
@[simp] theorem finish_regB (r : Report) (s : State) : (s.finish r).regB = s.regB := by simp [State.finish]
@[simp] theorem finish_regS (r : Report) (s : State) : (s.finish r).regS = s.regS := by simp [State.finish]
@[simp] theorem finish_regT (r : Report) (s : State) : (s.finish r).regT = s.regT := by simp [State.finish]
@[simp] theorem finish_pc (r : Report) (s : State) : (s.finish r).pc = s.pc := by simp [State.finish]
@[simp] theorem finish_sw (r : Report) (s : State) : (s.finish r).sw = (s.setOptCC r.newCC).sw := rfl
@[simp] theorem finish_regF (r : Report) (s : State) : (s.finish r).regF = s.regF := by simp [State.finish]
@[simp] theorem finish_mem (r : Report) (s : State) : (s.finish r).mem = s.mem := by simp [State.finish]
@[simp] theorem finish_config (r : Report) (s : State) : (s.finish r).config = s.config := by simp [State.finish]
@[simp] theorem finish_status (r : Report) (s : State) : (s.finish r).status = s.status := by simp [State.finish]
@[simp] theorem finish_result (r : Report) (s : State) : (s.finish r).result = some (r.result s.freeTraces) := by simp [State.finish]
@[simp] theorem finish_freeTraces (r : Report) (s : State) : (s.finish r).freeTraces = if r.trace.isNone then s.freeTraces + 1 else s.freeTraces := by simp [State.finish]

@[simp] theorem recordFault_regA (op : Opcode) (l : List Int) (f : EngineFault) (s : State) : (s.recordFault op l f).regA = s.regA := rfl
@[simp] theorem recordFault_regX (op : Opcode) (l : List Int) (f : EngineFault) (s : State) : (s.recordFault op l f).regX = s.regX := rfl
@[simp] theorem recordFault_regL (op : Opcode) (l : List Int) (f : EngineFault) (s : State) : (s.recordFault op l f).regL = s.regL := rfl
@[simp] theorem recordFault_regB (op : Opcode) (l : List Int) (f : EngineFault) (s : State) : (s.recordFault op l f).regB = s.regB := rfl
@[simp] theorem recordFault_regS (op : Opcode) (l : List Int) (f : EngineFault) (s : State) : (s.recordFault op l f).regS = s.regS := rfl
@[simp] theorem recordFault_regT (op : Opcode) (l : List Int) (f : EngineFault) (s : State) : (s.recordFault op l f).regT = s.regT := rfl
@[simp] theorem recordFault_pc (op : Opcode) (l : List Int) (f : EngineFault) (s : State) : (s.recordFault op l f).pc = s.pc := rfl
@[simp] theorem recordFault_sw (op : Opcode) (l : List Int) (f : EngineFault) (s : State) : (s.recordFault op l f).sw = s.sw := rfl
@[simp] theorem recordFault_regF (op : Opcode) (l : List Int) (f : EngineFault) (s : State) : (s.recordFault op l f).regF = s.regF := rfl
@[simp] theorem recordFault_mem (op : Opcode) (l : List Int) (f : EngineFault) (s : State) : (s.recordFault op l f).mem = s.mem := rfl
@[simp] theorem recordFault_config (op : Opcode) (l : List Int) (f : EngineFault) (s : State) : (s.recordFault op l f).config = s.config := rfl
@[simp] theorem recordFault_status (op : Opcode) (l : List Int) (f : EngineFault) (s : State) : (s.recordFault op l f).status = s.status := rfl
@[simp] theorem recordFault_result (op : Opcode) (l : List Int) (f : EngineFault) (s : State) : (s.recordFault op l f).result = some (({ opcode := op, operands := l, outcome := .fault f } : Report).result s.freeTraces) := rfl
@[simp] theorem recordFault_freeTraces (op : Opcode) (l : List Int) (f : EngineFault) (s : State) : (s.recordFault op l f).freeTraces = s.freeTraces + 1 := rfl

@[simp] theorem reg_setF (g : GReg) (v : Word48) (s : State) : (s.setF v).reg g = s.reg g := by cases g <;> rfl
@[simp] theorem reg_setPc (g : GReg) (n : Int) (s : State) : (s.setPc n).reg g = s.reg g := by cases g <;> rfl
@[simp] theorem reg_report (g : GReg) (r : Report) (s : State) : (s.report r).reg g = s.reg g := by cases g <;> rfl
@[simp] theorem reg_finish (g : GReg) (r : Report) (s : State) : (s.finish r).reg g = s.reg g := by
  cases g <;> simp [State.reg]

@[simp] theorem setPc_memSize (n : Int) (s : State) : (s.setPc n).memSize = s.memSize := rfl
@[simp] theorem finish_memSize (r : Report) (s : State) : (s.finish r).memSize = s.memSize := by
  simp [State.memSize]

/-! ### The control loop -/

@[simp] theorem advance_regA (len : Nat) (s : State) : (s.advance len).regA = s.regA := rfl
@[simp] theorem advance_regX (len : Nat) (s : State) : (s.advance len).regX = s.regX := rfl
@[simp] theorem advance_regL (len : Nat) (s : State) : (s.advance len).regL = s.regL := rfl
@[simp] theorem advance_regB (len : Nat) (s : State) : (s.advance len).regB = s.regB := rfl
@[simp] theorem advance_regS (len : Nat) (s : State) : (s.advance len).regS = s.regS := rfl
@[simp] theorem advance_regT (len : Nat) (s : State) : (s.advance len).regT = s.regT := rfl
@[simp] theorem advance_pc (len : Nat) (s : State) : (s.advance len).pc = trunc 24 ((s.pc.toNat + len : Nat) : Int) := rfl
@[simp] theorem advance_sw (len : Nat) (s : State) : (s.advance len).sw = s.sw := rfl
@[simp] theorem advance_regF (len : Nat) (s : State) : (s.advance len).regF = s.regF := rfl
@[simp] theorem advance_mem (len : Nat) (s : State) : (s.advance len).mem = s.mem := rfl
@[simp] theorem advance_config (len : Nat) (s : State) : (s.advance len).config = s.config := rfl
@[simp] theorem advance_status (len : Nat) (s : State) : (s.advance len).status = s.status := rfl
@[simp] theorem advance_result (len : Nat) (s : State) : (s.advance len).result = s.result := rfl
@[simp] theorem advance_freeTraces (len : Nat) (s : State) : (s.advance len).freeTraces = s.freeTraces := rfl

@[simp] theorem observe_regA (s : State) : s.observe.regA = s.regA := by
  unfold State.observe; split <;> [rfl; split] <;> rfl
@[simp] theorem observe_regX (s : State) : s.observe.regX = s.regX := by
  unfold State.observe; split <;> [rfl; split] <;> rfl
@[simp] theorem observe_regL (s : State) : s.observe.regL = s.regL := by
  unfold State.observe; split <;> [rfl; split] <;> rfl
@[simp] theorem observe_regB (s : State) : s.observe.regB = s.regB := by
  unfold State.observe; split <;> [rfl; split] <;> rfl
@[simp] theorem observe_regS (s : State) : s.observe.regS = s.regS := by
  unfold State.observe; split <;> [rfl; split] <;> rfl
@[simp] theorem observe_regT (s : State) : s.observe.regT = s.regT := by
  unfold State.observe; split <;> [rfl; split] <;> rfl
@[simp] theorem observe_pc (s : State) : s.observe.pc = s.pc := by
  unfold State.observe; split <;> [rfl; split] <;> rfl
@[simp] theorem observe_sw (s : State) : s.observe.sw = s.sw := by
  unfold State.observe; split <;> [rfl; split] <;> rfl
@[simp] theorem observe_regF (s : State) : s.observe.regF = s.regF := by
  unfold State.observe; split <;> [rfl; split] <;> rfl
@[simp] theorem observe_mem (s : State) : s.observe.mem = s.mem := by
  unfold State.observe; split <;> [rfl; split] <;> rfl
@[simp] theorem observe_config (s : State) : s.observe.config = s.config := by
  unfold State.observe; split <;> [rfl; split] <;> rfl
@[simp] theorem observe_result (s : State) : s.observe.result = s.result := by
  unfold State.observe; split <;> [rfl; split] <;> rfl
@[simp] theorem observe_freeTraces (s : State) : s.observe.freeTraces = s.freeTraces := by
  unfold State.observe; split <;> [rfl; split] <;> rfl

/-- The status after an execute that ended Ok, Halt or, in a record of a fault, Faulted (R350). -/
theorem observe_status (s : State) (r : Result) (h : s.result = some r) :
    s.observe.status = match r.outcome with
      | .ok => s.status
      | .halt => .halted
      | .fault f => .faulted f := by
  cases hr : r.outcome <;> simp [State.observe, h, hr]

@[simp] theorem surfaceFault_regA (op : Opcode) (l : List Int) (f : EngineFault) (s : State) : (s.surfaceFault op l f).regA = s.regA := rfl
@[simp] theorem surfaceFault_regX (op : Opcode) (l : List Int) (f : EngineFault) (s : State) : (s.surfaceFault op l f).regX = s.regX := rfl
@[simp] theorem surfaceFault_regL (op : Opcode) (l : List Int) (f : EngineFault) (s : State) : (s.surfaceFault op l f).regL = s.regL := rfl
@[simp] theorem surfaceFault_regB (op : Opcode) (l : List Int) (f : EngineFault) (s : State) : (s.surfaceFault op l f).regB = s.regB := rfl
@[simp] theorem surfaceFault_regS (op : Opcode) (l : List Int) (f : EngineFault) (s : State) : (s.surfaceFault op l f).regS = s.regS := rfl
@[simp] theorem surfaceFault_regT (op : Opcode) (l : List Int) (f : EngineFault) (s : State) : (s.surfaceFault op l f).regT = s.regT := rfl
@[simp] theorem surfaceFault_pc (op : Opcode) (l : List Int) (f : EngineFault) (s : State) : (s.surfaceFault op l f).pc = s.pc := rfl
@[simp] theorem surfaceFault_sw (op : Opcode) (l : List Int) (f : EngineFault) (s : State) : (s.surfaceFault op l f).sw = s.sw := rfl
@[simp] theorem surfaceFault_regF (op : Opcode) (l : List Int) (f : EngineFault) (s : State) : (s.surfaceFault op l f).regF = s.regF := rfl
@[simp] theorem surfaceFault_mem (op : Opcode) (l : List Int) (f : EngineFault) (s : State) : (s.surfaceFault op l f).mem = s.mem := rfl
@[simp] theorem surfaceFault_config (op : Opcode) (l : List Int) (f : EngineFault) (s : State) : (s.surfaceFault op l f).config = s.config := rfl
@[simp] theorem surfaceFault_status (op : Opcode) (l : List Int) (f : EngineFault) (s : State) : (s.surfaceFault op l f).status = .faulted f := rfl
@[simp] theorem surfaceFault_result (op : Opcode) (l : List Int) (f : EngineFault) (s : State) : (s.surfaceFault op l f).result = some (({ opcode := op, operands := l, outcome := .fault f } : Report).result s.freeTraces) := rfl
@[simp] theorem surfaceFault_freeTraces (op : Opcode) (l : List Int) (f : EngineFault) (s : State) : (s.surfaceFault op l f).freeTraces = s.freeTraces + 1 := rfl

/-! ### Stores, records and the host -/

@[simp] theorem withOperands_regA (l : List Int) (s : State) : (s.withOperands l).regA = s.regA := rfl
@[simp] theorem withOperands_regX (l : List Int) (s : State) : (s.withOperands l).regX = s.regX := rfl
@[simp] theorem withOperands_regL (l : List Int) (s : State) : (s.withOperands l).regL = s.regL := rfl
@[simp] theorem withOperands_regB (l : List Int) (s : State) : (s.withOperands l).regB = s.regB := rfl
@[simp] theorem withOperands_regS (l : List Int) (s : State) : (s.withOperands l).regS = s.regS := rfl
@[simp] theorem withOperands_regT (l : List Int) (s : State) : (s.withOperands l).regT = s.regT := rfl
@[simp] theorem withOperands_pc (l : List Int) (s : State) : (s.withOperands l).pc = s.pc := rfl
@[simp] theorem withOperands_sw (l : List Int) (s : State) : (s.withOperands l).sw = s.sw := rfl
@[simp] theorem withOperands_regF (l : List Int) (s : State) : (s.withOperands l).regF = s.regF := rfl
@[simp] theorem withOperands_mem (l : List Int) (s : State) : (s.withOperands l).mem = s.mem := rfl
@[simp] theorem withOperands_config (l : List Int) (s : State) : (s.withOperands l).config = s.config := rfl
@[simp] theorem withOperands_status (l : List Int) (s : State) : (s.withOperands l).status = s.status := rfl
@[simp] theorem withOperands_result (l : List Int) (s : State) : (s.withOperands l).result = s.result.map fun r => { r with operands := l } := rfl
@[simp] theorem withOperands_freeTraces (l : List Int) (s : State) : (s.withOperands l).freeTraces = s.freeTraces := rfl

@[simp] theorem loadByte_regA (c : Host.Cell) (s : State) : (loadByte s c).regA = s.regA := rfl
@[simp] theorem loadByte_regX (c : Host.Cell) (s : State) : (loadByte s c).regX = s.regX := rfl
@[simp] theorem loadByte_regL (c : Host.Cell) (s : State) : (loadByte s c).regL = s.regL := rfl
@[simp] theorem loadByte_regB (c : Host.Cell) (s : State) : (loadByte s c).regB = s.regB := rfl
@[simp] theorem loadByte_regS (c : Host.Cell) (s : State) : (loadByte s c).regS = s.regS := rfl
@[simp] theorem loadByte_regT (c : Host.Cell) (s : State) : (loadByte s c).regT = s.regT := rfl
@[simp] theorem loadByte_pc (c : Host.Cell) (s : State) : (loadByte s c).pc = s.pc := rfl
@[simp] theorem loadByte_sw (c : Host.Cell) (s : State) : (loadByte s c).sw = s.sw := rfl
@[simp] theorem loadByte_regF (c : Host.Cell) (s : State) : (loadByte s c).regF = s.regF := rfl
@[simp] theorem loadByte_mem (c : Host.Cell) (s : State) : (loadByte s c).mem = if c.1 < s.memSize then s.mem.write c.1 c.2 else s.mem := rfl
@[simp] theorem loadByte_config (c : Host.Cell) (s : State) : (loadByte s c).config = s.config := rfl
@[simp] theorem loadByte_status (c : Host.Cell) (s : State) : (loadByte s c).status = s.status := rfl
@[simp] theorem loadByte_result (c : Host.Cell) (s : State) : (loadByte s c).result = s.result := rfl
@[simp] theorem loadByte_freeTraces (c : Host.Cell) (s : State) : (loadByte s c).freeTraces = s.freeTraces := rfl

end Sys2Proof.Machine
end

