-- ==== Sys2Proof/Laws/Ops.lean ====
section
/-! SUPPORT. One lemma for each shared operation of the meanings: everything it can do. The meanings are then taken
apart by these lemmas and not unfolded again. -/

namespace Sys2Proof.Machine

/-! ### Checks -/

/-- A checked execute goes on exactly when its check succeeds. -/
theorem orFault_eq_next {α : Type} {r : Except EngineFault α} {k : α → Answer} {t : State} :
    orFault r k = .next t ↔ ∃ v, r = .ok v ∧ k v = .next t := by
  cases r <;> simp [orFault]

/-- A checked execute faults because its check failed or because the rest faulted. -/
theorem orFault_eq_fault {α : Type} {r : Except EngineFault α} {k : α → Answer} {e : Fault} :
    orFault r k = .fault e ↔ (∃ f, r = .error f ∧ e = .engine f) ∨ ∃ v, r = .ok v ∧ k v = .fault e := by
  cases r <;> simp [orFault, eq_comm]

/-- A checked execute refuses only if the rest refuses. -/
theorem orFault_eq_refused {α : Type} {r : Except EngineFault α} {k : α → Answer} {e : Refusal} :
    orFault r k = .refused e ↔ ∃ v, r = .ok v ∧ k v = .refused e := by
  cases r <;> simp [orFault]

@[simp] theorem orFault_ok {α : Type} (v : α) (k : α → Answer) : orFault (.ok v) k = k v := rfl

@[simp] theorem orFault_error {α : Type} (f : EngineFault) (k : α → Answer) :
    orFault (.error f) k = .fault (.engine f) := rfl

/-- An ordinal that names a register is that register's ordinal (R21). -/
theorem ordinalReg_eq_ok {o : Int} {g : GReg} : ordinalReg o = .ok g ↔ o = g.ordinal := by
  unfold ordinalReg
  constructor
  · intro h
    split_ifs at h <;> cases h <;> simpa [GReg.ordinal]
  · rintro rfl
    cases g <;> rfl

@[simp] theorem ordinalReg_ordinal (g : GReg) : ordinalReg g.ordinal = .ok g := ordinalReg_eq_ok.2 rfl

/-- Two registers with one ordinal are the same. -/
theorem GReg.ordinal_inj {g h : GReg} (heq : g.ordinal = h.ordinal) : g = h := by
  cases g <;> cases h <;> first | rfl | (simp [GReg.ordinal] at heq)

/-- An ordinal outside 0..5 faults, recorded as given (R21, R302). -/
theorem ordinalReg_outside {o : Int} (h : o < 0 ∨ 5 < o) :
    ordinalReg o = .error (.invalidRegisterOrdinalFault o) := by
  unfold ordinalReg
  split_ifs <;> first | rfl | omega

/-- The only way an ordinal fails (R302). -/
theorem ordinalReg_eq_error {o : Int} {f : EngineFault} (h : ordinalReg o = .error f) :
    f = .invalidRegisterOrdinalFault o ∧ (o < 0 ∨ 5 < o) := by
  unfold ordinalReg at h
  split_ifs at h
  cases h
  exact ⟨rfl, by omega⟩

/-- A pair of ordinals names a pair of registers (R140). -/
theorem ordinalRegs_eq_ok {r1 r2 : Int} {g : GReg × GReg} :
    ordinalRegs r1 r2 = .ok g ↔ r1 = g.1.ordinal ∧ r2 = g.2.ordinal := by
  unfold ordinalRegs
  constructor
  · intro h
    split at h
    · cases h
    · split at h
      · cases h
      · cases h
        exact ⟨ordinalReg_eq_ok.1 ‹_›, ordinalReg_eq_ok.1 ‹_›⟩
  · rintro ⟨rfl, rfl⟩
    simp

/-- The only ways a pair of ordinals fails: r1 first, then r2 (R140, R307). -/
theorem ordinalRegs_eq_error {r1 r2 : Int} {f : EngineFault} (h : ordinalRegs r1 r2 = .error f) :
    (f = .invalidRegisterOrdinalFault r1 ∧ (r1 < 0 ∨ 5 < r1)) ∨
      (f = .invalidRegisterOrdinalFault r2 ∧ (r2 < 0 ∨ 5 < r2)) := by
  unfold ordinalRegs at h
  split at h
  · cases h; exact .inl (ordinalReg_eq_error ‹_›)
  · split at h
    · cases h; exact .inr (ordinalReg_eq_error ‹_›)
    · cases h

/-- A division goes on exactly when the divisor is not 0, with the quotient (R114). -/
theorem divide_eq_ok {w : Nat} {op : Opcode} {a b r : BitVec w} :
    divide op a b = .ok r ↔ b.toInt ≠ 0 ∧ r = divW a b := by
  unfold divide
  split_ifs with h <;> simp [h, eq_comm]

/-- A division fails exactly when the divisor is 0, recording the opcode (R304). -/
theorem divide_eq_error {w : Nat} {op : Opcode} {a b : BitVec w} {f : EngineFault} :
    divide op a b = .error f ↔ b.toInt = 0 ∧ f = .divideByZeroFault op := by
  unfold divide
  split_ifs with h <;> simp [h, eq_comm]

/-! ### Accessors -/

/-- A checked word read gives the word at the checked address (R54). -/
theorem readWord_eq_ok {s : State} {ea : Int} {v : Word} :
    s.readWord ea = .ok v ↔ ∃ a, s.access 0 ea = .ok a ∧ v = s.mem.word a := by
  cases h : s.access 0 ea <;> simp [State.readWord, h, Except.map, eq_comm]

/-- A checked byte read gives byte `CH_LANE` of the word (R56). -/
theorem readByte_eq_ok {s : State} {ea : Int} {v : Byte} :
    s.readByte ea = .ok v ↔ ∃ a, s.access 0 ea = .ok a ∧ v = s.mem.read (a + s.config.chLane.val) := by
  cases h : s.access 0 ea <;> simp [State.readByte, h, Except.map, eq_comm]

/-- A checked 48-bit read gives the two words (R57). -/
theorem read48_eq_ok {s : State} {ea : Int} {v : Word48} :
    s.read48 ea = .ok v ↔ ∃ a, s.access 1 ea = .ok a ∧ v = s.mem.word48 a := by
  cases h : s.access 1 ea <;> simp [State.read48, h, Except.map, eq_comm]

/-- A checked word write changes that word of memory and nothing else (R55, R59). -/
theorem writeWord_eq_ok {s t : State} {ea : Int} {v : Word} :
    s.writeWord ea v = .ok t ↔ ∃ a, s.access 0 ea = .ok a ∧ t = { s with mem := s.mem.setWord a v } := by
  cases h : s.access 0 ea <;> simp [State.writeWord, h, Except.map, eq_comm]

/-- A checked byte write changes one byte of memory and nothing else (R56, R59). -/
theorem writeByte_eq_ok {s t : State} {ea : Int} {v : Byte} :
    s.writeByte ea v = .ok t ↔
      ∃ a, s.access 0 ea = .ok a ∧ t = { s with mem := s.mem.write (a + s.config.chLane.val) v } := by
  cases h : s.access 0 ea <;> simp [State.writeByte, h, Except.map, eq_comm]

/-- A checked 48-bit write changes those two words and nothing else (R58, R59). -/
theorem write48_eq_ok {s t : State} {ea : Int} {v : Word48} :
    s.write48 ea v = .ok t ↔ ∃ a, s.access 1 ea = .ok a ∧ t = { s with mem := s.mem.setWord48 a v } := by
  cases h : s.access 1 ea <;> simp [State.write48, h, Except.map, eq_comm]

theorem readWord_eq_error {s : State} {ea : Int} {f : EngineFault} :
    s.readWord ea = .error f ↔ s.access 0 ea = .error f := by
  cases h : s.access 0 ea <;> simp [State.readWord, h, Except.map]

theorem readByte_eq_error {s : State} {ea : Int} {f : EngineFault} :
    s.readByte ea = .error f ↔ s.access 0 ea = .error f := by
  cases h : s.access 0 ea <;> simp [State.readByte, h, Except.map]

theorem read48_eq_error {s : State} {ea : Int} {f : EngineFault} :
    s.read48 ea = .error f ↔ s.access 1 ea = .error f := by
  cases h : s.access 1 ea <;> simp [State.read48, h, Except.map]

theorem writeWord_eq_error {s : State} {ea : Int} {v : Word} {f : EngineFault} :
    s.writeWord ea v = .error f ↔ s.access 0 ea = .error f := by
  cases h : s.access 0 ea <;> simp [State.writeWord, h, Except.map]

theorem writeByte_eq_error {s : State} {ea : Int} {v : Byte} {f : EngineFault} :
    s.writeByte ea v = .error f ↔ s.access 0 ea = .error f := by
  cases h : s.access 0 ea <;> simp [State.writeByte, h, Except.map]

theorem write48_eq_error {s : State} {ea : Int} {v : Word48} {f : EngineFault} :
    s.write48 ea v = .error f ↔ s.access 1 ea = .error f := by
  cases h : s.access 1 ea <;> simp [State.write48, h, Except.map]

/-! ### The condition code -/

/-- Writing a condition code keeps the reserved bits of SW (R28). -/
@[simp] theorem setCC_swReserved (c : CC) (s : State) : (s.setCC c).swReserved = s.swReserved := by
  refine BitVec.eq_of_getLsbD_eq fun i hi => ?_
  simp only [State.swReserved, setCC_sw, BitVec.getLsbD_extractLsb', BitVec.getLsbD_append]
  rw [if_neg (by omega), show 2 + i - 2 = i by omega]
  simp

/-- Reading the condition code after writing it (R28, R29). -/
@[simp] theorem setCC_ccBits (c : CC) (s : State) : (s.setCC c).ccBits = c.code := by
  refine BitVec.eq_of_getLsbD_eq fun i hi => ?_
  simp only [State.ccBits, setCC_sw, BitVec.getLsbD_extractLsb', BitVec.getLsbD_append]
  rw [if_pos (by omega)]
  simp [hi]

/-- SW is its reserved bits and its condition code (R27). -/
theorem sw_split (s : State) : s.swReserved ++ s.ccBits = s.sw := by
  refine BitVec.eq_of_getLsbD_eq fun i hi => ?_
  simp only [State.swReserved, State.ccBits, BitVec.getLsbD_append, BitVec.getLsbD_extractLsb']
  split_ifs with h
  · simp [h]
  · rw [show 2 + (i - 2) = i by omega]; simp [show i - 2 < 22 by omega]

/-- The value of SW after a condition code write. -/
theorem setCC_sw_toNat (c : CC) (s : State) :
    (s.setCC c).sw.toNat = 4 * s.swReserved.toNat + c.code.toNat := by
  rw [setCC_sw]
  have h : ((s.swReserved ++ c.code : BitVec (22 + 2))).toNat = s.swReserved.toNat * 2 ^ 2 + c.code.toNat := by
    rw [BitVec.toNat_append, Nat.shiftLeft_eq, Nat.mul_comm, ← Nat.two_pow_add_eq_or_of_lt c.code.isLt]
  exact h.trans (by omega)

/-- The value of the reserved bits. -/
theorem swReserved_toNat (s : State) : s.swReserved.toNat = s.sw.toNat / 4 := by
  have := s.sw.isLt
  simp only [State.swReserved, BitVec.extractLsb'_toNat, Nat.shiftRight_eq_div_pow]
  omega

theorem CC.code_lt (c : CC) : c.code.toNat < 3 := by cases c <;> decide

/-! ### What an execute can do -/

/-- The effect an execute has before its end: only registers, PC, F and memory may differ, and memory keeps its
form. -/
structure Effect (s s' : State) : Prop where
  sw : s'.sw = s.sw
  config : s'.config = s.config
  status : s'.status = s.status
  result : s'.result = s.result
  freeTraces : s'.freeTraces = s.freeTraces
  wf : s.mem.wf = true → s'.mem.wf = true
  below : s.mem.below s.memSize = true → s'.mem.below s.memSize = true

theorem Effect.refl (s : State) : Effect s s := ⟨rfl, rfl, rfl, rfl, rfl, id, id⟩

theorem Effect.setReg (g : GReg) (v : Word) (s : State) : Effect s (s.setReg g v) := by
  constructor <;> simp

theorem Effect.setF (v : Word48) (s : State) : Effect s (s.setF v) := by constructor <;> simp

theorem Effect.setPc (n : Int) (s : State) : Effect s (s.setPc n) := by constructor <;> simp

theorem Effect.trans {s t u : State} (h1 : Effect s t) (h2 : Effect t u) : Effect s u where
  sw := h2.sw.trans h1.sw
  config := h2.config.trans h1.config
  status := h2.status.trans h1.status
  result := h2.result.trans h1.result
  freeTraces := h2.freeTraces.trans h1.freeTraces
  wf h := h2.wf (h1.wf h)
  below h := by
    have hs : t.memSize = s.memSize := by simp [State.memSize, h1.config]
    have := h2.below (by rw [hs]; exact h1.below h)
    rwa [hs] at this

theorem Effect.writeWord {s t : State} {ea : Int} {v : Word} (h : s.writeWord ea v = .ok t) : Effect s t := by
  obtain ⟨a, ha, rfl⟩ := writeWord_eq_ok.1 h
  have hb := (access_eq_ok.1 ha).2.2
  have h3 := access_eq_ok.1 ha
  exact ⟨rfl, rfl, rfl, rfl, rfl, Memory.wf_setWord _ _, Memory.below_setWord _ (by
    simp only [State.memSize]; omega)⟩

theorem Effect.write48 {s t : State} {ea : Int} {v : Word48} (h : s.write48 ea v = .ok t) : Effect s t := by
  obtain ⟨a, ha, rfl⟩ := write48_eq_ok.1 h
  have h3 := access_eq_ok.1 ha
  exact ⟨rfl, rfl, rfl, rfl, rfl, Memory.wf_setWord48 _ _, Memory.below_setWord48 _ (by
    simp only [State.memSize]; omega)⟩

theorem Effect.writeByte {s t : State} {ea : Int} {v : Byte} (h : s.writeByte ea v = .ok t) : Effect s t := by
  obtain ⟨a, ha, rfl⟩ := writeByte_eq_ok.1 h
  have h3 := access_eq_ok.1 ha
  have hl := s.config.chLane.isLt
  exact ⟨rfl, rfl, rfl, rfl, rfl, Memory.wf_write _ _, Memory.below_write _ (by
    simp only [State.memSize]; omega)⟩

end Sys2Proof.Machine
end

