-- ==== Sys2Proof/Laws/Exec.lean ====
section
/-! SUPPORT. What an execute of any instruction can do: it never refuses, it faults with an engine fault, and a next
state is an effect on registers, PC, F or memory followed by `finish`. -/

namespace Sys2Proof.Machine

/-- What an execute that ends without a fault does: an effect, then the end with a report of this opcode, whose
outcome is Ok, or Halt for RSUB with L = 0 (R196, R300). -/
structure Done (op : Opcode) (s t : State) : Prop where
  ends : ∃ s' r, Effect s s' ∧ t = s'.finish r ∧ r.opcode = op ∧
    (r.outcome = .ok ∨ (r.outcome = .halt ∧ op = .rsub ∧ s.regL = 0 ∧ t.pc = 0 ∧ t.regL = 0))

/-- An answer that is either such a next state or an engine fault. -/
def Ends (op : Opcode) (s : State) (a : Answer) : Prop :=
  (∃ t, a = .next t ∧ Done op s t) ∨ ∃ f, a = .fault (.engine f)

theorem Ends.done {op : Opcode} {s s' : State} {r : Report} (he : Effect s s') (ho : r.opcode = op)
    (hk : r.outcome = .ok) : Ends op s (.next (s'.finish r)) :=
  .inl ⟨_, rfl, ⟨s', r, he, rfl, ho, .inl hk⟩⟩

theorem Ends.orFault {α : Type} {op : Opcode} {s : State} {r : Except EngineFault α} {k : α → Answer}
    (h : ∀ v, r = .ok v → Ends op s (k v)) : Ends op s (orFault r k) := by
  cases r with
  | ok v => exact h v rfl
  | error f => exact .inr ⟨f, rfl⟩

theorem accumulate_ends (op : Opcode) (r : Word) (s : State) : Ends op s (accumulate op r s) :=
  .done (.setReg _ _ _) rfl rfl

theorem intoReg_ends (op : Opcode) (r1 r2 : Int) (g : GReg) (r : Word) (s : State) :
    Ends op s (intoReg op r1 r2 g r s) :=
  .done (.setReg _ _ _) rfl rfl

theorem intoF_ends (op : Opcode) (r : Word48) (s : State) : Ends op s (intoF op r s) := .done (.setF _ _) rfl rfl

theorem skip_ends (op : Opcode) (l : List Int) (s : State) : Ends op s (skip op l s) := .done (.refl _) rfl rfl

theorem intoShifted_ends (op : Opcode) (r1 : Int) (n : Nat) (g : GReg) (r : Word) (s : State) :
    Ends op s (intoShifted op r1 n g r s) :=
  .done (.setReg _ _ _) rfl rfl

theorem jumpIf_ends (op : Opcode) (c : CC) (t : Target) (s : State) : Ends op s (jumpIf op c t s) := by
  unfold jumpIf
  split_ifs
  · exact .done (.setPc _ _) rfl rfl
  · exact .done (.refl _) rfl rfl

theorem loadWord_ends (op : Opcode) (g : GReg) (t : Target) (s : State) : Ends op s (loadWord op g t s) :=
  .orFault fun _ _ => .done (.setReg _ _ _) rfl rfl

theorem storeWord_ends (op : Opcode) (g : GReg) (t : Target) (s : State) : Ends op s (storeWord op g t s) :=
  .orFault fun _ h => .done (.writeWord h) rfl rfl

theorem execRsub_ends (f : Form) (s : State) : Ends .rsub s (execRsub f s) := by
  unfold execRsub
  split_ifs with h
  · refine .inl ⟨_, rfl, ⟨s.setPc 0, _, .setPc _ _, rfl, rfl, .inr ⟨rfl, rfl, ?_, ?_, ?_⟩⟩⟩
    · exact BitVec.eq_of_toNat_eq (by simpa using h)
    · simp [State.halt]
    · exact BitVec.eq_of_toNat_eq (by simpa [State.halt] using h)
  · exact .done (.setPc _ _) rfl rfl

/-- Every execute ends so: it answers no refusal and no fault but the engine's (R300). -/
theorem exec_ends (i : Instr) (s : State) : Ends i.opcode s (exec i s) := by
  cases i with
  | add t => exact .orFault fun _ _ => accumulate_ends _ _ _
  | sub t => exact .orFault fun _ _ => accumulate_ends _ _ _
  | mul t => exact .orFault fun _ _ => accumulate_ends _ _ _
  | div t => exact .orFault fun _ _ => .orFault fun _ _ => accumulate_ends _ _ _
  | and t => exact .orFault fun _ _ => accumulate_ends _ _ _
  | or t => exact .orFault fun _ _ => accumulate_ends _ _ _
  | addr r1 r2 => exact .orFault fun _ _ => intoReg_ends _ _ _ _ _ _
  | subr r1 r2 => exact .orFault fun _ _ => intoReg_ends _ _ _ _ _ _
  | mulr r1 r2 => exact .orFault fun _ _ => intoReg_ends _ _ _ _ _ _
  | divr r1 r2 => exact .orFault fun _ _ => .orFault fun _ _ => intoReg_ends _ _ _ _ _ _
  | addf t => exact .orFault fun _ _ => intoF_ends _ _ _
  | subf t => exact .orFault fun _ _ => intoF_ends _ _ _
  | mulf t => exact .orFault fun _ _ => intoF_ends _ _ _
  | divf t => exact .orFault fun _ _ => .orFault fun _ _ => intoF_ends _ _ _
  | compf t => exact .orFault fun _ _ => .done (.refl _) rfl rfl
  | fix => exact .done (.setReg _ _ _) rfl rfl
  | float => exact .done (.setF _ _) rfl rfl
  | norm => exact skip_ends _ _ _
  | sio => exact skip_ends _ _ _
  | ssk f => exact skip_ends _ _ _
  | rd f => exact skip_ends _ _ _
  | tio => exact skip_ends _ _ _
  | td f => exact skip_ends _ _ _
  | svc n => exact skip_ends _ _ _
  | wd f => exact skip_ends _ _ _
  | lps f => exact skip_ends _ _ _
  | sti f => exact skip_ends _ _ _
  | j t => exact .done (.setPc _ _) rfl rfl
  | jeq t => exact jumpIf_ends _ _ _ _
  | jlt t => exact jumpIf_ends _ _ _ _
  | jgt t => exact jumpIf_ends _ _ _ _
  | jsub t => exact .done ((Effect.setReg _ _ _).trans (.setPc _ _)) rfl rfl
  | rsub f => exact execRsub_ends f s
  | lda t => exact loadWord_ends _ _ _ _
  | ldb t => exact loadWord_ends _ _ _ _
  | ldl t => exact loadWord_ends _ _ _ _
  | lds t => exact loadWord_ends _ _ _ _
  | ldt t => exact loadWord_ends _ _ _ _
  | ldx t => exact loadWord_ends _ _ _ _
  | sta t => exact storeWord_ends _ _ _ _
  | stb t => exact storeWord_ends _ _ _ _
  | stl t => exact storeWord_ends _ _ _ _
  | sts t => exact storeWord_ends _ _ _ _
  | stt t => exact storeWord_ends _ _ _ _
  | stx t => exact storeWord_ends _ _ _ _
  | ldch t => exact .orFault fun _ _ => .done (.setReg _ _ _) rfl rfl
  | stch t => exact .orFault fun _ h => .done (.writeByte h) rfl rfl
  | ldf t => exact .orFault fun _ _ => .done (.setF _ _) rfl rfl
  | stf t => exact .orFault fun _ h => .done (.write48 h) rfl rfl
  | clear r1 => exact .orFault fun _ _ => .done (.setReg _ _ _) rfl rfl
  | comp t => exact .orFault fun _ _ => .done (.refl _) rfl rfl
  | compr r1 r2 => exact .orFault fun _ _ => .done (.refl _) rfl rfl
  | shiftl r1 n => exact .orFault fun _ _ => intoShifted_ends _ _ _ _ _ _
  | shiftr r1 n => exact .orFault fun _ _ => intoShifted_ends _ _ _ _ _ _
  | rmo r1 r2 => exact .orFault fun _ _ => .done (.setReg _ _ _) rfl rfl
  | tix t => exact .orFault fun _ _ => .done (.setReg _ _ _) rfl rfl
  | tixr r1 => exact .orFault fun _ _ => .done (.setReg _ _ _) rfl rfl

/-- What an execute that answers a next state did. -/
theorem exec_next {i : Instr} {s t : State} (h : exec i s = .next t) : Done i.opcode s t := by
  rcases exec_ends i s with ⟨t', ht, hd⟩ | ⟨f, hf⟩
  · rw [h] at ht; cases ht; exact hd
  · rw [h] at hf; cases hf

/-! ### What an execute of a record can do -/

/-- The instruction a record is has the record's opcode (R80, R81). -/
theorem Record.toInstr_opcode {r : Record} {i : Instr} (h : r.toInstr = .ok i) : i.opcode = r.opcode := by
  obtain ⟨op, l, x, ea⟩ := r
  cases op
  all_goals
    simp only [Record.toInstr, builder] at h
    repeat' split at h
    all_goals first | (cases h; rfl) | cases h

/-- An execute of a record is refused, or ends with the next state of its instruction, or records its fault, and then
nothing else is new (R83, R300, R306, R320). -/
theorem execute_cases (r : Record) (s : State) :
    (∃ e, r.toInstr = .error e ∧ execute r s = .refused e) ∨
    (∃ i t, r.toInstr = .ok i ∧ exec i s = .next t ∧ execute r s = .next (t.withOperands r.operands)) ∨
    ∃ i f, r.toInstr = .ok i ∧ exec i s = .fault (.engine f) ∧
      execute r s = .next (s.recordFault r.opcode r.operands f) := by
  unfold execute
  cases hr : r.toInstr with
  | error e => exact .inl ⟨e, rfl, rfl⟩
  | ok i =>
    rcases exec_ends i s with ⟨t, ht, -⟩ | ⟨f, hf⟩
    · exact .inr (.inl ⟨i, t, rfl, ht, by simp only [ht]⟩)
    · exact .inr (.inr ⟨i, f, rfl, hf, by simp only [hf]⟩)

/-! ### What a step can do -/

/-- A step that answers a next state left status Running by one of three ways: a failed fetch or decode, an execute
that ended, or an execute that faulted (R350). -/
theorem step_cases {s t : State} (h : step s = .next t) :
    s.status = .running ∧
      ((∃ st, fetchDecode s = .error st ∧ t = { s with status := st }) ∨
       (∃ i len u, fetchDecode s = .ok (i, len) ∧ exec i (s.advance len) = .next u ∧ t = u.observe) ∨
       (∃ i len f, fetchDecode s = .ok (i, len) ∧ exec i (s.advance len) = .fault (.engine f) ∧
          t = s.surfaceFault i.opcode (fieldOperands i.fields) f)) := by
  unfold step at h
  cases hs : s.status with
  | halted => rw [hs] at h; cases h
  | faulted f => rw [hs] at h; cases h
  | fetchFault p => rw [hs] at h; cases h
  | decodeFault p => rw [hs] at h; cases h
  | running =>
    rw [hs] at h
    refine ⟨rfl, ?_⟩
    simp only [loopStep] at h
    cases hf : fetchDecode s with
    | error st => rw [hf] at h; cases h; exact .inl ⟨st, rfl, rfl⟩
    | ok p =>
      obtain ⟨i, len⟩ := p
      rw [hf] at h
      simp only at h
      cases he : exec i (s.advance len) with
      | next u => rw [he] at h; cases h; exact .inr (.inl ⟨i, len, u, rfl, he, rfl⟩)
      | refused r => rw [he] at h; cases h
      | fault e =>
        rw [he] at h
        cases e with
        | engine f => cases h; exact .inr (.inr ⟨i, len, f, rfl, he, rfl⟩)
        | notRunning st => cases h

end Sys2Proof.Machine
end

