-- ==== Sys2Proof/Laws/Leaves.lean ====
section
/-! SUPPORT. The bridge from the meanings to the words of the statements (Safety.lean): signs, comparisons, operand
words, the two ways an access fails, and what `finish` leaves. -/

namespace Sys2Proof.Machine

/-- The sign derivators agree (R30, R31). -/
theorem ccSignInt_eq_signCC (d : Int) : ccSignInt d = signCC d := by
  unfold ccSignInt signCC
  split_ifs <;> first | rfl | omega

theorem ccSign_eq_signCC {w : Nat} (v : BitVec w) : ccSign v = signCC v.toInt := ccSignInt_eq_signCC _

/-- The comparisons agree (R31). -/
theorem ccCmp_eq_compareCC {w : Nat} (mode : CmpMode) (a b : BitVec w) : ccCmp mode a b = compareCC mode a b := by
  cases mode <;> simp [ccCmp, compareCC, ccSignInt_eq_signCC, ccSign_eq_signCC]

/-- SW after a report's condition code (R28). -/
theorem setOptCC_sw (c : Option CC) (s : State) : (s.setOptCC c).sw = swWithCC s.sw c := by
  cases c with
  | none => rfl
  | some c => cases c <;> rfl

theorem wordAt_eq (s : State) (a : Nat) : wordAt s a = s.mem.word a := rfl

theorem word48At_eq (s : State) (a : Nat) : word48At s a = s.mem.word48 a := by
  unfold word48At Memory.word48 Memory.word
  refine BitVec.eq_of_getLsbD_eq fun i hi => ?_
  simp only [BitVec.getLsbD_append]
  split_ifs <;> first | rfl | (exfalso; omega)

/-- A word operand at an aligned address inside memory (R54). -/
theorem readWord_inside {s : State} {ea : Int} {w : Nat} (h : ea = 3 * (w : Int)) (hw : w < s.config.memWords) :
    s.readWord ea = .ok (wordAt s (3 * w)) :=
  readWord_eq_ok.2 ⟨3 * w, by rw [access_eq_ok]; omega, rfl⟩

/-- A 48-bit operand at an aligned address, both words inside memory (R57). -/
theorem read48_inside {s : State} {ea : Int} {w : Nat} (h : ea = 3 * (w : Int)) (hw : w + 1 < s.config.memWords) :
    s.read48 ea = .ok (word48At s (3 * w)) :=
  read48_eq_ok.2 ⟨3 * w, by rw [access_eq_ok]; omega, word48At_eq _ _⟩

/-- A byte operand at an aligned address inside memory (R56). -/
theorem readByte_inside {s : State} {ea : Int} {w : Nat} (h : ea = 3 * (w : Int)) (hw : w < s.config.memWords) :
    s.readByte ea = .ok (s.mem.read (3 * w + s.config.chLane.val)) :=
  readByte_eq_ok.2 ⟨3 * w, by rw [access_eq_ok]; omega, rfl⟩

theorem access_of_misaligned {s : State} {extra : Nat} {ea : Int} (h : misaligned ea) :
    s.access extra ea = .error (.alignmentFault ea) :=
  access_misaligned s extra h

theorem access_of_outside {s : State} {extra : Nat} {ea : Int} (h : outside s extra ea) :
    s.access extra ea = .error (.memoryBoundsFault ea) :=
  access_outside s extra h.1 (by have := h.2; simp only [State.memSize]; push_cast; exact this)

theorem ordinal_ok (g : GReg) : ¬ badOrdinal g.ordinal := by cases g <;> simp [badOrdinal, GReg.ordinal]

/-- An ordinal in 0..5 names a register (R21). -/
theorem exists_ordinal {o : Int} (h : ¬ badOrdinal o) : ∃ g : GReg, o = g.ordinal := by
  cases hr : ordinalReg o with
  | ok g => exact ⟨g, ordinalReg_eq_ok.1 hr⟩
  | error f => exact absurd (ordinalReg_eq_error hr).2 h

theorem ordinalRegs_bad_r1 {r1 : Int} (r2 : Int) (h : badOrdinal r1) :
    ordinalRegs r1 r2 = .error (.invalidRegisterOrdinalFault r1) := by
  simp [ordinalRegs, ordinalReg_outside h]

theorem ordinalRegs_bad_r2 {r1 r2 : Int} (h1 : ¬ badOrdinal r1) (h2 : badOrdinal r2) :
    ordinalRegs r1 r2 = .error (.invalidRegisterOrdinalFault r2) := by
  obtain ⟨g, rfl⟩ := exists_ordinal h1
  simp [ordinalRegs, ordinalReg_outside h2]

@[simp] theorem ordinalRegs_ordinal (g1 g2 : GReg) : ordinalRegs g1.ordinal g2.ordinal = .ok (g1, g2) :=
  ordinalRegs_eq_ok.2 ⟨rfl, rfl⟩

/-- The ten placeholders by membership (R170, R320). -/
theorem isPlaceholder_eq (op : Opcode) :
    decide (op ∈ [Opcode.norm, .sio, .ssk, .rd, .tio, .td, .svc, .wd, .lps, .sti]) = isPlaceholder op := by
  cases op <;> rfl

/-- What an execute leaves, from the effect before its end and its report. -/
theorem Leaves.finish {s s' : State} {i : Instr} {ws : List GReg} {r : Report} (he : Effect s s')
    (hregs : ∀ g, g ∉ ws → s'.reg g = s.reg g) (ho : r.opcode = i.opcode)
    (hl : r.operands = fieldOperands i.fields) :
    Leaves ws i r.outcome r.newCC r.condMet r.trace s (s'.finish r) where
  regs g hg := by rw [reg_finish]; exact hregs g hg
  config := by simp [he.config]
  status := by simp [he.status]
  sw := by rw [finish_sw, setOptCC_sw, he.sw]
  result := by
    refine ⟨r.trace.getD (.free s.freeTraces), ?_, fun x hx => by simp [hx]⟩
    rw [finish_result, he.freeTraces]
    simp only [Report.result, resultRecord, isPlaceholder_eq, ho, hl]

end Sys2Proof.Machine
end

