-- ==== Sys2Proof/Laws/PerInstr.lean ====
section
/-! SUPPORT. Laws of every instruction as syntax, one lemma per constructor of Instr. -/

namespace Sys2Proof.Laws

/-- The first byte of a well-formed instruction's encoding selects its opcode (R84, R89). -/
def EncodeSelects.Statement (i : Instr) : Prop :=
  i.wellFormed = true → ∃ b, (encode i).head? = some b ∧ selectOpcode b = some i.opcode

/-- The length of a well-formed instruction's encoding is that of its format: 1, 2, or 3 or 4 bytes (R88). -/
def EncodeLength.Statement (i : Instr) : Prop :=
  i.wellFormed = true → match i.fields with
    | .none => (encode i).length = 1
    | .regReg _ _ => (encode i).length = 2
    | .reg _ => (encode i).length = 2
    | .regCount _ _ => (encode i).length = 2
    | .number _ => (encode i).length = 2
    | .mem _ => (encode i).length = 3 ∨ (encode i).length = 4
    | .loose _ => (encode i).length = 3 ∨ (encode i).length = 4

theorem EncodeSelects.add (t : Target) : EncodeSelects.Statement (.add t) :=
  fun h => ⟨_, encodeTarget_head h, selectOpcode_mem .add _ rfl⟩
theorem EncodeSelects.sub (t : Target) : EncodeSelects.Statement (.sub t) :=
  fun h => ⟨_, encodeTarget_head h, selectOpcode_mem .sub _ rfl⟩
theorem EncodeSelects.mul (t : Target) : EncodeSelects.Statement (.mul t) :=
  fun h => ⟨_, encodeTarget_head h, selectOpcode_mem .mul _ rfl⟩
theorem EncodeSelects.div (t : Target) : EncodeSelects.Statement (.div t) :=
  fun h => ⟨_, encodeTarget_head h, selectOpcode_mem .div _ rfl⟩
theorem EncodeSelects.and (t : Target) : EncodeSelects.Statement (.and t) :=
  fun h => ⟨_, encodeTarget_head h, selectOpcode_mem .and _ rfl⟩
theorem EncodeSelects.or (t : Target) : EncodeSelects.Statement (.or t) :=
  fun h => ⟨_, encodeTarget_head h, selectOpcode_mem .or _ rfl⟩
theorem EncodeSelects.addr (r1 r2 : Int) : EncodeSelects.Statement (.addr r1 r2) :=
  fun _ => ⟨_, rfl, selectOpcode_opcodeByte _⟩
theorem EncodeSelects.subr (r1 r2 : Int) : EncodeSelects.Statement (.subr r1 r2) :=
  fun _ => ⟨_, rfl, selectOpcode_opcodeByte _⟩
theorem EncodeSelects.mulr (r1 r2 : Int) : EncodeSelects.Statement (.mulr r1 r2) :=
  fun _ => ⟨_, rfl, selectOpcode_opcodeByte _⟩
theorem EncodeSelects.divr (r1 r2 : Int) : EncodeSelects.Statement (.divr r1 r2) :=
  fun _ => ⟨_, rfl, selectOpcode_opcodeByte _⟩
theorem EncodeSelects.addf (t : Target) : EncodeSelects.Statement (.addf t) :=
  fun h => ⟨_, encodeTarget_head h, selectOpcode_mem .addf _ rfl⟩
theorem EncodeSelects.subf (t : Target) : EncodeSelects.Statement (.subf t) :=
  fun h => ⟨_, encodeTarget_head h, selectOpcode_mem .subf _ rfl⟩
theorem EncodeSelects.mulf (t : Target) : EncodeSelects.Statement (.mulf t) :=
  fun h => ⟨_, encodeTarget_head h, selectOpcode_mem .mulf _ rfl⟩
theorem EncodeSelects.divf (t : Target) : EncodeSelects.Statement (.divf t) :=
  fun h => ⟨_, encodeTarget_head h, selectOpcode_mem .divf _ rfl⟩
theorem EncodeSelects.compf (t : Target) : EncodeSelects.Statement (.compf t) :=
  fun h => ⟨_, encodeTarget_head h, selectOpcode_mem .compf _ rfl⟩
theorem EncodeSelects.fix : EncodeSelects.Statement .fix :=
  fun _ => ⟨_, rfl, selectOpcode_opcodeByte _⟩
theorem EncodeSelects.float : EncodeSelects.Statement .float :=
  fun _ => ⟨_, rfl, selectOpcode_opcodeByte _⟩
theorem EncodeSelects.norm : EncodeSelects.Statement .norm :=
  fun _ => ⟨_, rfl, selectOpcode_opcodeByte _⟩
theorem EncodeSelects.sio : EncodeSelects.Statement .sio :=
  fun _ => ⟨_, rfl, selectOpcode_opcodeByte _⟩
theorem EncodeSelects.ssk (f : Form) : EncodeSelects.Statement (.ssk f) :=
  fun h => encodeForm_head (op := .ssk) rfl h
theorem EncodeSelects.rd (f : Form) : EncodeSelects.Statement (.rd f) :=
  fun h => encodeForm_head (op := .rd) rfl h
theorem EncodeSelects.tio : EncodeSelects.Statement .tio :=
  fun _ => ⟨_, rfl, selectOpcode_opcodeByte _⟩
theorem EncodeSelects.td (f : Form) : EncodeSelects.Statement (.td f) :=
  fun h => encodeForm_head (op := .td) rfl h
theorem EncodeSelects.svc (n : Int) : EncodeSelects.Statement (.svc n) :=
  fun _ => ⟨_, rfl, selectOpcode_opcodeByte _⟩
theorem EncodeSelects.wd (f : Form) : EncodeSelects.Statement (.wd f) :=
  fun h => encodeForm_head (op := .wd) rfl h
theorem EncodeSelects.lps (f : Form) : EncodeSelects.Statement (.lps f) :=
  fun h => encodeForm_head (op := .lps) rfl h
theorem EncodeSelects.sti (f : Form) : EncodeSelects.Statement (.sti f) :=
  fun h => encodeForm_head (op := .sti) rfl h
theorem EncodeSelects.j (t : Target) : EncodeSelects.Statement (.j t) :=
  fun h => ⟨_, encodeTarget_head h, selectOpcode_mem .j _ rfl⟩
theorem EncodeSelects.jeq (t : Target) : EncodeSelects.Statement (.jeq t) :=
  fun h => ⟨_, encodeTarget_head h, selectOpcode_mem .jeq _ rfl⟩
theorem EncodeSelects.jlt (t : Target) : EncodeSelects.Statement (.jlt t) :=
  fun h => ⟨_, encodeTarget_head h, selectOpcode_mem .jlt _ rfl⟩
theorem EncodeSelects.jgt (t : Target) : EncodeSelects.Statement (.jgt t) :=
  fun h => ⟨_, encodeTarget_head h, selectOpcode_mem .jgt _ rfl⟩
theorem EncodeSelects.jsub (t : Target) : EncodeSelects.Statement (.jsub t) :=
  fun h => ⟨_, encodeTarget_head h, selectOpcode_mem .jsub _ rfl⟩
theorem EncodeSelects.rsub (f : Form) : EncodeSelects.Statement (.rsub f) :=
  fun h => encodeForm_head (op := .rsub) rfl h
theorem EncodeSelects.lda (t : Target) : EncodeSelects.Statement (.lda t) :=
  fun h => ⟨_, encodeTarget_head h, selectOpcode_mem .lda _ rfl⟩
theorem EncodeSelects.ldb (t : Target) : EncodeSelects.Statement (.ldb t) :=
  fun h => ⟨_, encodeTarget_head h, selectOpcode_mem .ldb _ rfl⟩
theorem EncodeSelects.ldl (t : Target) : EncodeSelects.Statement (.ldl t) :=
  fun h => ⟨_, encodeTarget_head h, selectOpcode_mem .ldl _ rfl⟩
theorem EncodeSelects.lds (t : Target) : EncodeSelects.Statement (.lds t) :=
  fun h => ⟨_, encodeTarget_head h, selectOpcode_mem .lds _ rfl⟩
theorem EncodeSelects.ldt (t : Target) : EncodeSelects.Statement (.ldt t) :=
  fun h => ⟨_, encodeTarget_head h, selectOpcode_mem .ldt _ rfl⟩
theorem EncodeSelects.ldx (t : Target) : EncodeSelects.Statement (.ldx t) :=
  fun h => ⟨_, encodeTarget_head h, selectOpcode_mem .ldx _ rfl⟩
theorem EncodeSelects.sta (t : Target) : EncodeSelects.Statement (.sta t) :=
  fun h => ⟨_, encodeTarget_head h, selectOpcode_mem .sta _ rfl⟩
theorem EncodeSelects.stb (t : Target) : EncodeSelects.Statement (.stb t) :=
  fun h => ⟨_, encodeTarget_head h, selectOpcode_mem .stb _ rfl⟩
theorem EncodeSelects.stl (t : Target) : EncodeSelects.Statement (.stl t) :=
  fun h => ⟨_, encodeTarget_head h, selectOpcode_mem .stl _ rfl⟩
theorem EncodeSelects.sts (t : Target) : EncodeSelects.Statement (.sts t) :=
  fun h => ⟨_, encodeTarget_head h, selectOpcode_mem .sts _ rfl⟩
theorem EncodeSelects.stt (t : Target) : EncodeSelects.Statement (.stt t) :=
  fun h => ⟨_, encodeTarget_head h, selectOpcode_mem .stt _ rfl⟩
theorem EncodeSelects.stx (t : Target) : EncodeSelects.Statement (.stx t) :=
  fun h => ⟨_, encodeTarget_head h, selectOpcode_mem .stx _ rfl⟩
theorem EncodeSelects.ldch (t : Target) : EncodeSelects.Statement (.ldch t) :=
  fun h => ⟨_, encodeTarget_head h, selectOpcode_mem .ldch _ rfl⟩
theorem EncodeSelects.stch (t : Target) : EncodeSelects.Statement (.stch t) :=
  fun h => ⟨_, encodeTarget_head h, selectOpcode_mem .stch _ rfl⟩
theorem EncodeSelects.ldf (t : Target) : EncodeSelects.Statement (.ldf t) :=
  fun h => ⟨_, encodeTarget_head h, selectOpcode_mem .ldf _ rfl⟩
theorem EncodeSelects.stf (t : Target) : EncodeSelects.Statement (.stf t) :=
  fun h => ⟨_, encodeTarget_head h, selectOpcode_mem .stf _ rfl⟩
theorem EncodeSelects.clear (r1 : Int) : EncodeSelects.Statement (.clear r1) :=
  fun _ => ⟨_, rfl, selectOpcode_opcodeByte _⟩
theorem EncodeSelects.comp (t : Target) : EncodeSelects.Statement (.comp t) :=
  fun h => ⟨_, encodeTarget_head h, selectOpcode_mem .comp _ rfl⟩
theorem EncodeSelects.compr (r1 r2 : Int) : EncodeSelects.Statement (.compr r1 r2) :=
  fun _ => ⟨_, rfl, selectOpcode_opcodeByte _⟩
theorem EncodeSelects.shiftl (r1 : Int) (n : Nat) : EncodeSelects.Statement (.shiftl r1 n) :=
  fun _ => ⟨_, rfl, selectOpcode_opcodeByte _⟩
theorem EncodeSelects.shiftr (r1 : Int) (n : Nat) : EncodeSelects.Statement (.shiftr r1 n) :=
  fun _ => ⟨_, rfl, selectOpcode_opcodeByte _⟩
theorem EncodeSelects.rmo (r1 r2 : Int) : EncodeSelects.Statement (.rmo r1 r2) :=
  fun _ => ⟨_, rfl, selectOpcode_opcodeByte _⟩
theorem EncodeSelects.tix (t : Target) : EncodeSelects.Statement (.tix t) :=
  fun h => ⟨_, encodeTarget_head h, selectOpcode_mem .tix _ rfl⟩
theorem EncodeSelects.tixr (r1 : Int) : EncodeSelects.Statement (.tixr r1) :=
  fun _ => ⟨_, rfl, selectOpcode_opcodeByte _⟩

theorem EncodeLength.add (t : Target) : EncodeLength.Statement (.add t) :=
  fun h => encodeTarget_length h
theorem EncodeLength.sub (t : Target) : EncodeLength.Statement (.sub t) :=
  fun h => encodeTarget_length h
theorem EncodeLength.mul (t : Target) : EncodeLength.Statement (.mul t) :=
  fun h => encodeTarget_length h
theorem EncodeLength.div (t : Target) : EncodeLength.Statement (.div t) :=
  fun h => encodeTarget_length h
theorem EncodeLength.and (t : Target) : EncodeLength.Statement (.and t) :=
  fun h => encodeTarget_length h
theorem EncodeLength.or (t : Target) : EncodeLength.Statement (.or t) :=
  fun h => encodeTarget_length h
theorem EncodeLength.addr (r1 r2 : Int) : EncodeLength.Statement (.addr r1 r2) := fun _ => rfl
theorem EncodeLength.subr (r1 r2 : Int) : EncodeLength.Statement (.subr r1 r2) := fun _ => rfl
theorem EncodeLength.mulr (r1 r2 : Int) : EncodeLength.Statement (.mulr r1 r2) := fun _ => rfl
theorem EncodeLength.divr (r1 r2 : Int) : EncodeLength.Statement (.divr r1 r2) := fun _ => rfl
theorem EncodeLength.addf (t : Target) : EncodeLength.Statement (.addf t) :=
  fun h => encodeTarget_length h
theorem EncodeLength.subf (t : Target) : EncodeLength.Statement (.subf t) :=
  fun h => encodeTarget_length h
theorem EncodeLength.mulf (t : Target) : EncodeLength.Statement (.mulf t) :=
  fun h => encodeTarget_length h
theorem EncodeLength.divf (t : Target) : EncodeLength.Statement (.divf t) :=
  fun h => encodeTarget_length h
theorem EncodeLength.compf (t : Target) : EncodeLength.Statement (.compf t) :=
  fun h => encodeTarget_length h
theorem EncodeLength.fix : EncodeLength.Statement .fix := fun _ => rfl
theorem EncodeLength.float : EncodeLength.Statement .float := fun _ => rfl
theorem EncodeLength.norm : EncodeLength.Statement .norm := fun _ => rfl
theorem EncodeLength.sio : EncodeLength.Statement .sio := fun _ => rfl
theorem EncodeLength.ssk (f : Form) : EncodeLength.Statement (.ssk f) :=
  fun h => encodeForm_length h
theorem EncodeLength.rd (f : Form) : EncodeLength.Statement (.rd f) :=
  fun h => encodeForm_length h
theorem EncodeLength.tio : EncodeLength.Statement .tio := fun _ => rfl
theorem EncodeLength.td (f : Form) : EncodeLength.Statement (.td f) :=
  fun h => encodeForm_length h
theorem EncodeLength.svc (n : Int) : EncodeLength.Statement (.svc n) := fun _ => rfl
theorem EncodeLength.wd (f : Form) : EncodeLength.Statement (.wd f) :=
  fun h => encodeForm_length h
theorem EncodeLength.lps (f : Form) : EncodeLength.Statement (.lps f) :=
  fun h => encodeForm_length h
theorem EncodeLength.sti (f : Form) : EncodeLength.Statement (.sti f) :=
  fun h => encodeForm_length h
theorem EncodeLength.j (t : Target) : EncodeLength.Statement (.j t) :=
  fun h => encodeTarget_length h
theorem EncodeLength.jeq (t : Target) : EncodeLength.Statement (.jeq t) :=
  fun h => encodeTarget_length h
theorem EncodeLength.jlt (t : Target) : EncodeLength.Statement (.jlt t) :=
  fun h => encodeTarget_length h
theorem EncodeLength.jgt (t : Target) : EncodeLength.Statement (.jgt t) :=
  fun h => encodeTarget_length h
theorem EncodeLength.jsub (t : Target) : EncodeLength.Statement (.jsub t) :=
  fun h => encodeTarget_length h
theorem EncodeLength.rsub (f : Form) : EncodeLength.Statement (.rsub f) :=
  fun h => encodeForm_length h
theorem EncodeLength.lda (t : Target) : EncodeLength.Statement (.lda t) :=
  fun h => encodeTarget_length h
theorem EncodeLength.ldb (t : Target) : EncodeLength.Statement (.ldb t) :=
  fun h => encodeTarget_length h
theorem EncodeLength.ldl (t : Target) : EncodeLength.Statement (.ldl t) :=
  fun h => encodeTarget_length h
theorem EncodeLength.lds (t : Target) : EncodeLength.Statement (.lds t) :=
  fun h => encodeTarget_length h
theorem EncodeLength.ldt (t : Target) : EncodeLength.Statement (.ldt t) :=
  fun h => encodeTarget_length h
theorem EncodeLength.ldx (t : Target) : EncodeLength.Statement (.ldx t) :=
  fun h => encodeTarget_length h
theorem EncodeLength.sta (t : Target) : EncodeLength.Statement (.sta t) :=
  fun h => encodeTarget_length h
theorem EncodeLength.stb (t : Target) : EncodeLength.Statement (.stb t) :=
  fun h => encodeTarget_length h
theorem EncodeLength.stl (t : Target) : EncodeLength.Statement (.stl t) :=
  fun h => encodeTarget_length h
theorem EncodeLength.sts (t : Target) : EncodeLength.Statement (.sts t) :=
  fun h => encodeTarget_length h
theorem EncodeLength.stt (t : Target) : EncodeLength.Statement (.stt t) :=
  fun h => encodeTarget_length h
theorem EncodeLength.stx (t : Target) : EncodeLength.Statement (.stx t) :=
  fun h => encodeTarget_length h
theorem EncodeLength.ldch (t : Target) : EncodeLength.Statement (.ldch t) :=
  fun h => encodeTarget_length h
theorem EncodeLength.stch (t : Target) : EncodeLength.Statement (.stch t) :=
  fun h => encodeTarget_length h
theorem EncodeLength.ldf (t : Target) : EncodeLength.Statement (.ldf t) :=
  fun h => encodeTarget_length h
theorem EncodeLength.stf (t : Target) : EncodeLength.Statement (.stf t) :=
  fun h => encodeTarget_length h
theorem EncodeLength.clear (r1 : Int) : EncodeLength.Statement (.clear r1) := fun _ => rfl
theorem EncodeLength.comp (t : Target) : EncodeLength.Statement (.comp t) :=
  fun h => encodeTarget_length h
theorem EncodeLength.compr (r1 r2 : Int) : EncodeLength.Statement (.compr r1 r2) := fun _ => rfl
theorem EncodeLength.shiftl (r1 : Int) (n : Nat) : EncodeLength.Statement (.shiftl r1 n) := fun _ => rfl
theorem EncodeLength.shiftr (r1 : Int) (n : Nat) : EncodeLength.Statement (.shiftr r1 n) := fun _ => rfl
theorem EncodeLength.rmo (r1 r2 : Int) : EncodeLength.Statement (.rmo r1 r2) := fun _ => rfl
theorem EncodeLength.tix (t : Target) : EncodeLength.Statement (.tix t) :=
  fun h => encodeTarget_length h
theorem EncodeLength.tixr (r1 : Int) : EncodeLength.Statement (.tixr r1) := fun _ => rfl

end Sys2Proof.Laws
end

