-- ==== Sys2Proof/Tests/Slice0.lean ====
section
/-! SUPPORT. Tests by named theorems. Expected results are the vectors S1 to T9, P1 to P5, K1 to K6 of
95_test_vectors.md and the encodings of 30_encoding.md; the last part shows, for each statement with hypotheses, states
and operands that meet them. -/

namespace Sys2Proof.Tests

open Sys2Proof.Machine

/-! ### Helpers -/

/-- What is seen of a next state. -/
def got {α : Type} (f : State → α) (a : Answer) : Option α :=
  match a with
  | .next u => some (f u)
  | .fault _ => none
  | .refused _ => none

/-- The fault an answer ends with. -/
def faultOf : Answer → Option Fault
  | .next _ => none
  | .fault f => some f
  | .refused _ => none

/-- The refusal an answer ends with. -/
def refusalOf : Answer → Option Refusal
  | .next _ => none
  | .fault _ => none
  | .refused r => some r

/-- A word of memory set. -/
def withWord (a : Nat) (v : Word) (s : State) : State := { s with mem := s.mem.setWord a v }

/-- Two words of memory set. -/
def withWord48 (a : Nat) (v : Word48) (s : State) : State := { s with mem := s.mem.setWord48 a v }

/-- A launch state from bytes at address 0, with 32 words of memory as the programs of 95_test_vectors.md have. -/
def program (bs : List Byte) : State :=
  { State.resetWith { resetConfig with memWords := 32 } with mem := storeBytes 96 0 bs [] }

/-- The record address 0x30. -/
def at30 : Target := .resolved 0x30 false

/-- The vectors' configurations other than the default (R8). -/
def wrapped : State := State.resetWith { resetConfig with cmpMode := .wrapped }
def lane2 : State := State.resetWith { resetConfig with chLane := 2 }
def zeroUpper : State := State.resetWith { resetConfig with ldchUpper := .zero }
def floatCC : State := State.resetWith { resetConfig with floatArithSetsCC := true }

def s0 : State := State.reset

/-! ### Well-formedness: an ill-formed term for each check -/

theorem test_wf_memory_forms :
    (Instr.add (.direct false 0x30)).wellFormed = true ∧ (Instr.add (.resolved 0x30 false)).wellFormed = false := by decide

theorem test_wf_loose_forms :
    (Instr.rsub (.sic true 0x7FFF)).wellFormed = true ∧
    (Instr.rsub (.simple (.resolved 0 false))).wellFormed = false ∧
    (Instr.rd (.immediate (.resolved 0 false))).wellFormed = false ∧
    (Instr.td (.indirect (.resolved 0 true))).wellFormed = false := by decide

theorem test_wf_register_pair :
    (Instr.addr 0 15).wellFormed = true ∧ (Instr.addr (-1) 0).wellFormed = false ∧
    (Instr.addr 16 0).wellFormed = false ∧ (Instr.rmo 0 (-1)).wellFormed = false ∧
    (Instr.rmo 0 16).wellFormed = false := by decide

theorem test_wf_single_register :
    (Instr.clear 15).wellFormed = true ∧ (Instr.clear (-1)).wellFormed = false ∧
    (Instr.tixr 16).wellFormed = false := by decide

theorem test_wf_shift :
    (Instr.shiftl 0 15).wellFormed = true ∧ (Instr.shiftl 0 16).wellFormed = false ∧
    (Instr.shiftr (-1) 0).wellFormed = false ∧ (Instr.shiftr 16 0).wellFormed = false := by decide

theorem test_wf_svc :
    (Instr.svc 15).wellFormed = true ∧ (Instr.svc 16).wellFormed = false ∧ (Instr.svc (-1)).wellFormed = false ∧
    Instr.fix.wellFormed = true := by decide

/-! ### Decoding: a word for each constructor, written from R84, R88 and R91 to R93 -/

/-- ADD is 000110, n = i = 1, x = b = p = e = 0, displacement 0000 0011 0000 (R98). -/
theorem test_decode_add : decode [0b00011011, 0b00000000, 0b00110000] = .ok (.add (.direct false 0x030), 3) := by decide

/-- SUB: x = 1; MUL: p = 1; DIV: b = 1; AND: format 4 with x; OR: format 4. -/
theorem test_decode_word_arithmetic :
    decode [0b00011111, 0b10000000, 0b00110000] = .ok (.sub (.direct true 0x030), 3) ∧
    decode [0b00100011, 0b00101111, 0b11110011] = .ok (.mul (.pcRelative false 0xFF3), 3) ∧
    decode [0b00100111, 0b01000001, 0b00000010] = .ok (.div (.baseRelative false 0x102), 3) ∧
    decode [0b01000011, 0b10010001, 0b00100011, 0b01000101] = .ok (.and (.extended true 0x12345), 4) ∧
    decode [0b01000111, 0b00010001, 0b00100011, 0b01000101] = .ok (.or (.extended false 0x12345), 4) := by decide

/-- r1 in bits 7..4 of the second byte, r2 in bits 3..0. -/
theorem test_decode_register_arithmetic :
    decode [0b10010000, 0b01000001] = .ok (.addr 4 1, 2) ∧ decode [0b10010100, 0b01000101] = .ok (.subr 4 5, 2) ∧
    decode [0b10011000, 0b00010010] = .ok (.mulr 1 2, 2) ∧ decode [0b10011100, 0b01101001] = .ok (.divr 6 9, 2) := by
  decide

theorem test_decode_extended :
    decode [0b01011011, 0x00, 0x30] = .ok (.addf (.direct false 0x30), 3) ∧
    decode [0x5F, 0x00, 0x36] = .ok (.subf (.direct false 0x36), 3) ∧
    decode [0x63, 0x00, 0x36] = .ok (.mulf (.direct false 0x36), 3) ∧
    decode [0x67, 0x8F, 0xFF] = .ok (.divf (.direct true 0xFFF), 3) ∧
    decode [0x8B, 0x00, 0x42] = .ok (.compf (.direct false 0x42), 3) ∧
    decode [0b11000100] = .ok (.fix, 1) ∧ decode [0b11000000] = .ok (.float, 1) := by decide

/-- Every n, i of a placeholder decodes (R97): SSK simple, RD immediate, TD indirect, WD in the SIC form, whose address
has the bits b, p, e. -/
theorem test_decode_placeholders :
    decode [0xC8] = .ok (.norm, 1) ∧ decode [0xF0] = .ok (.sio, 1) ∧ decode [0xF8] = .ok (.tio, 1) ∧
    decode [0b11101111, 0x20, 0x01] = .ok (.ssk (.simple (.pcRelative false 1)), 3) ∧
    decode [0b11011001, 0x10, 0x00, 0x05] = .ok (.rd (.immediate (.extended false 5)), 4) ∧
    decode [0b11100010, 0xC0, 0x01] = .ok (.td (.indirect (.baseRelative true 1)), 3) ∧
    decode [0b10110000, 0b00111111] = .ok (.svc 3, 2) ∧
    decode [0b11011100, 0b11110001, 0b00000010] = .ok (.wd (.sic true 0x7102), 3) ∧
    decode [0xD3, 0x00, 0x30] = .ok (.lps (.simple (.direct false 0x30)), 3) ∧
    decode [0xD4, 0x05, 0xDD] = .ok (.sti (.sic false 1501), 3) := by decide

theorem test_decode_control_flow :
    decode [0b00111111, 0x02, 0x00] = .ok (.j (.direct false 0x200), 3) ∧
    decode [0x33, 0x00, 0x04] = .ok (.jeq (.direct false 4), 3) ∧
    decode [0x3B, 0x2F, 0xF3] = .ok (.jlt (.pcRelative false 0xFF3), 3) ∧
    decode [0x37, 0x00, 0x12] = .ok (.jgt (.direct false 0x12), 3) ∧
    decode [0x4B, 0x00, 0x20] = .ok (.jsub (.direct false 0x20), 3) ∧
    decode [0x4F, 0x00, 0x00] = .ok (.rsub (.simple (.direct false 0)), 3) ∧
    decode [0x4C, 0x00, 0x00] = .ok (.rsub (.sic false 0), 3) := by decide

theorem test_decode_loads :
    decode [0b00000011, 0x80, 0x36] = .ok (.lda (.direct true 0x36), 3) ∧
    decode [0x6B, 0x00, 0x30] = .ok (.ldb (.direct false 0x30), 3) ∧
    decode [0x0B, 0x00, 0x30] = .ok (.ldl (.direct false 0x30), 3) ∧
    decode [0x6F, 0x00, 0x30] = .ok (.lds (.direct false 0x30), 3) ∧
    decode [0x77, 0x00, 0x33] = .ok (.ldt (.direct false 0x33), 3) ∧
    decode [0x07, 0x40, 0x30] = .ok (.ldx (.baseRelative false 0x30), 3) ∧
    decode [0x53, 0x90, 0x00, 0x30] = .ok (.ldch (.extended true 0x30), 4) ∧
    decode [0x73, 0x00, 0x30] = .ok (.ldf (.direct false 0x30), 3) := by decide

theorem test_decode_stores :
    decode [0b00001111, 0x80, 0x3C] = .ok (.sta (.direct true 0x3C), 3) ∧
    decode [0x7B, 0x00, 0x30] = .ok (.stb (.direct false 0x30), 3) ∧
    decode [0x17, 0x00, 0x33] = .ok (.stl (.direct false 0x33), 3) ∧
    decode [0x7F, 0x00, 0x36] = .ok (.sts (.direct false 0x36), 3) ∧
    decode [0x87, 0x00, 0x39] = .ok (.stt (.direct false 0x39), 3) ∧
    decode [0x13, 0x00, 0x3C] = .ok (.stx (.direct false 0x3C), 3) ∧
    decode [0x57, 0x20, 0x05] = .ok (.stch (.pcRelative false 5), 3) ∧
    decode [0x83, 0x00, 0x3C] = .ok (.stf (.direct false 0x3C), 3) := by decide

/-- The r2 nibble of CLEAR and TIXR is ignored, that of a shift is the count (R91). -/
theorem test_decode_clear_compare_shift_move_test :
    decode [0b10110100, 0b00011111] = .ok (.clear 1, 2) ∧
    decode [0b00101011, 0x00, 0x30] = .ok (.comp (.direct false 0x30), 3) ∧
    decode [0b10100000, 0b00010101] = .ok (.compr 1 5, 2) ∧ decode [0b10100100, 0b00001111] = .ok (.shiftl 0 15, 2) ∧
    decode [0b10101000, 0b00000100] = .ok (.shiftr 0 4, 2) ∧ decode [0b10101100, 0b00000001] = .ok (.rmo 0 1, 2) ∧
    decode [0b00101111, 0x00, 0x33] = .ok (.tix (.direct false 0x33), 3) ∧
    decode [0b10111000, 0b01010000] = .ok (.tixr 5, 2) := by decide

/-- HIO, STSW and 0xFF select no opcode (R87). -/
theorem test_decode_no_opcode :
    decode [0xF4] = .error .noOpcode ∧ decode [0xE8, 0, 0] = .error .noOpcode ∧ decode [0xFF] = .error .noOpcode ∧
    decode [0xC5] = .error .noOpcode ∧ decode [0xB6, 0x00] = .error .noOpcode := by decide

/-- The immediate, indirect and SIC forms of a data opcode or a jump (R97, K4). -/
theorem test_decode_not_admitted :
    decode [0x00, 0x00, 0x00] = .error .formNotAdmitted ∧ decode [0x01, 0x00, 0x05] = .error .formNotAdmitted ∧
    decode [0x02, 0x00, 0x05] = .error .formNotAdmitted ∧ decode [0x3D, 0x00, 0x05] = .error .formNotAdmitted := by
  decide

/-- b = p = 1 in format 3, b or p in format 4 (R92, R93). -/
theorem test_decode_addressing_undefined :
    decode [0x03, 0x60, 0x00] = .error .addressingUndefined ∧
    decode [0x03, 0x30, 0x00, 0x00] = .error .addressingUndefined ∧
    decode [0x03, 0x50, 0x00, 0x00] = .error .addressingUndefined ∧
    decode [0x4F, 0x60, 0x00] = .error .addressingUndefined := by decide

theorem test_decode_truncated :
    decode [] = .error .truncated ∧ decode [0x90] = .error .truncated ∧ decode [0x03] = .error .truncated ∧
    decode [0x00, 0x00] = .error .truncated ∧ decode [0x03, 0x10, 0x00] = .error .truncated := by decide

/-- The target addresses of R92 and R93: pcNext - 13, B + X + 0x102, and the wrap at 2^24. -/
theorem test_target_addresses :
    targetEa (.pcRelative false 0xFF3) { s0 with pc := 0x13 } = 6 ∧
    targetEa (.baseRelative true 0x102) { s0 with regB := 0x1000, regX := 3 } = 0x1105 ∧
    targetEa (.direct true 0xFFF) { s0 with regX := 0xFFFFFF } = 0xFFE ∧
    targetEa (.extended false 0xFFFFF) s0 = 0xFFFFF ∧ targetEa (.pcRelative false 0x800) s0 = 0xFFF800 := by decide

/-- The table's words: the opcode byte with n = i = 1 is the instruction, and the step runs it first; with n = i = 0 a
data opcode is not admitted (R97), RSUB is (R97). -/
theorem test_table_words :
    decodeTableWord 8 0x1B = some (.add (.direct false 0)) ∧ decodeTableWord 8 0x18 = none ∧
    decodeTableWord 8 0x4C = some (.rsub (.sic false 0)) ∧ decodeTableWord 16 0x0590 = some (.addr 0 5) := by decide

theorem test_fetch_word_runs :
    got (fun u => (u.regT, u.pc, u.status)) (step ({ s0 with regA := 7 }.withFetchWord 16 0x0590)) =
      some (7, 2, .running) := by decide

/-! ### Word arithmetic (S1, W) -/

theorem test_add_source_example :
    got (fun u => (u.regA, u.sw)) (exec (.add (.resolved 1500 false)) (withWord 1500 5 { s0 with regA := 3 })) =
      some (8, 2) := by decide

theorem test_add_keeps_reserved :
    got (fun u => (u.regA, u.sw)) (exec (.add at30) (withWord 0x30 1 { s0 with regA := 1, sw := 0x401 })) =
      some (2, 0x402) := by decide

theorem test_sub_wraps :
    got (fun u => (u.regA, u.sw)) (exec (.sub at30) (withWord 0x30 1 { s0 with regA := 0x800000 })) =
      some (0x7FFFFF, 2) := by decide

theorem test_mul_minus_one :
    got (fun u => (u.regA, u.sw)) (exec (.mul at30) (withWord 0x30 5 { s0 with regA := 0xFFFFFF })) =
      some (0xFFFFFB, 1) := by decide

theorem test_div_truncates :
    got (fun u => (u.regA, u.sw)) (exec (.div at30) (withWord 0x30 2 { s0 with regA := 0xFFFFF9 })) =
      some (0xFFFFFD, 1) := by decide

theorem test_div_alignment_first :
    faultOf (exec (.div (.resolved 0x31 false)) s0) = some (.engine (.alignmentFault 0x31)) ∧
    faultOf (exec (.div at30) s0) = some (.engine (.divideByZeroFault .div)) := by decide

theorem test_and_writes_cc :
    got (fun u => (u.regA, u.sw)) (exec (.and at30) (withWord 0x30 0xFFFFFF { s0 with regA := 0x800001 })) =
      some (0x800001, 1) := by decide

theorem test_or :
    got (fun u => (u.regA, u.sw)) (exec (.or at30) (withWord 0x30 1 { s0 with regA := 0x800000 })) =
      some (0x800001, 1) := by decide

/-- S2, W3 to W5. -/
theorem test_access_faults :
    faultOf (exec (.add (.resolved 1501 false)) s0) = some (.engine (.alignmentFault 1501)) ∧
    faultOf (exec (.add (.resolved 3072 false)) s0) = some (.engine (.memoryBoundsFault 3072)) ∧
    faultOf (exec (.add (.resolved (-3) false)) s0) = some (.engine (.memoryBoundsFault (-3))) ∧
    faultOf (exec (.add (.resolved (-1) false)) s0) = some (.engine (.alignmentFault (-1))) := by decide

/-! ### Register arithmetic (R) -/

theorem test_addr_same_register :
    got (fun u => (u.regA, u.sw)) (exec (.addr 0 0) { s0 with regA := 0x400000 }) = some (0x800000, 1) := by decide

theorem test_subr_order :
    got (fun u => (u.regS, u.regT, u.sw)) (exec (.subr 4 5) { s0 with regS := 5, regT := 3 }) =
      some (5, 0xFFFFFE, 1) := by decide

theorem test_mulr :
    got (fun u => (u.regT, u.sw)) (exec (.mulr 4 5) { s0 with regS := 3, regT := 0xFFFFFE }) =
      some (0xFFFFFA, 1) := by decide

theorem test_divr_by_a :
    got (fun u => (u.regT, u.sw)) (exec (.divr 0 5) { s0 with regA := 5, regT := 7 }) = some (1, 2) := by decide

theorem test_register_faults :
    faultOf (exec (.divr 4 5) { s0 with regT := 7 }) = some (.engine (.divideByZeroFault .divr)) ∧
    faultOf (exec (.divr 7 4) s0) = some (.engine (.invalidRegisterOrdinalFault 7)) ∧
    faultOf (exec (.addr 0 (-1)) s0) = some (.engine (.invalidRegisterOrdinalFault (-1))) ∧
    faultOf (exec (.addr 6 7) s0) = some (.engine (.invalidRegisterOrdinalFault 6)) := by decide

/-! ### Extended register (X) -/

theorem test_addf_wraps :
    got (fun u => (u.regF, u.sw)) (exec (.addf at30) (withWord48 0x30 1 { s0 with regF := 0x7FFFFFFFFFFF })) =
      some (0x800000000000, 0) := by decide

theorem test_addf_sets_cc :
    got (fun u => (u.regF, u.sw)) (exec (.addf at30) (withWord48 0x30 1 { floatCC with regF := 0x7FFFFFFFFFFF })) =
      some (0x800000000000, 1) := by decide

theorem test_subf :
    got (fun u => (u.regF, u.sw)) (exec (.subf at30) (withWord48 0x30 1 s0)) = some (0xFFFFFFFFFFFF, 0) := by decide

theorem test_mulf :
    got (fun u => u.regF) (exec (.mulf at30) (withWord48 0x30 0xFFFFFFFFFFFF { s0 with regF := 0xFFFFFFFFFFFF })) =
      some 1 := by decide

theorem test_divf :
    got (fun u => u.regF) (exec (.divf at30) (withWord48 0x30 0xFFFFFFFFFFFE { s0 with regF := 7 })) =
      some 0xFFFFFFFFFFFD := by decide

theorem test_extended_faults :
    faultOf (exec (.divf at30) { s0 with regF := 7 }) = some (.engine (.divideByZeroFault .divf)) ∧
    faultOf (exec (.addf (.resolved 3069 false)) s0) = some (.engine (.memoryBoundsFault 3069)) := by decide

theorem test_compf_exact :
    got (fun u => u.sw) (exec (.compf at30) (withWord48 0x30 0x800000000000 { s0 with regF := 0x7FFFFFFFFFFF })) =
      some 2 := by decide

theorem test_compf_wrapped :
    got (fun u => u.sw) (exec (.compf at30) (withWord48 0x30 0x800000000000 { wrapped with regF := 0x7FFFFFFFFFFF })) =
      some 1 := by decide

theorem test_fix :
    got (fun u => (u.regA, u.sw)) (exec .fix { s0 with regF := 0x123456789ABC, sw := 1 }) = some (0x789ABC, 1) := by
  decide

theorem test_float :
    got (fun u => (u.regF, u.sw)) (exec .float { s0 with regA := 0x800000, sw := 2 }) = some (0xFFFFFF800000, 2) := by
  decide

/-! ### Placeholders (U) -/

theorem test_rd_misaligned :
    got (fun u => (u.regA, u.status, u.result.map fun r => (r.outcome, r.unimpl)))
      (exec (.rd (.simple (.resolved 1501 false))) { s0 with regA := 0x41 }) =
      some (0x41, .running, some (.ok, true)) := by decide

theorem test_svc_without_operands :
    got (fun u => (u.pc, u.result.map fun r => (r.operands, r.unimpl)))
      (execute { opcode := .svc, operands := [], indexed := false, ea := 0 } { s0 with pc := 9 }) =
      some (9, some ([], true)) := by decide

theorem test_placeholders_keep_cc :
    [Instr.norm, .sio, .tio, .ssk (.sic false 1), .td (.sic false 1), .wd (.sic false 1), .lps (.sic false 1),
      .sti (.sic false 1)].map (fun i => got (fun u => (u.sw, u.pc, u.regF)) (exec i { s0 with sw := 1, pc := 6, regF := 3 })) =
      List.replicate 8 (some (1, 6, 3)) := by decide

/-! ### Control flow (J) -/

theorem test_j_truncates : got (fun u => u.pc) (exec (.j (.resolved 0x1000003 false)) { s0 with pc := 0x10 }) = some 3 := by
  decide

theorem test_jeq :
    got (fun u => (u.pc, u.result.map fun r => r.condMet)) (exec (.jeq (.resolved 4 false)) { s0 with pc := 0x10 }) =
      some (4, some (some true)) ∧
    got (fun u => (u.pc, u.result.map fun r => r.condMet))
      (exec (.jeq (.resolved 4 false)) { s0 with pc := 0x10, sw := 2 }) = some (0x10, some (some false)) := by decide

theorem test_jlt_unaligned :
    got (fun u => u.pc) (exec (.jlt (.resolved 0x31 false)) { s0 with pc := 0x10, sw := 1 }) = some 0x31 := by decide

theorem test_jgt :
    got (fun u => u.pc) (exec (.jgt (.resolved 0x12 false)) { s0 with pc := 0x10, sw := 2 }) = some 0x12 := by decide

theorem test_cc3_takes_no_jump :
    [Instr.jeq (.resolved 4 false), .jlt (.resolved 4 false), .jgt (.resolved 4 false)].map
      (fun i => got (fun u => u.pc) (exec i { s0 with pc := 0x10, sw := 3 })) = List.replicate 3 (some 0x10) := by decide

theorem test_jsub :
    got (fun u => (u.regL, u.pc)) (exec (.jsub (.resolved 0x20 false)) { s0 with pc := 6, regL := 9 }) =
      some (6, 0x20) := by decide

theorem test_rsub_returns :
    got (fun u => (u.pc, u.result.map fun r => r.outcome)) (exec (.rsub (.sic false 0)) { s0 with pc := 0x13, regL := 6 }) =
      some (6, some .ok) := by decide

theorem test_rsub_halts :
    got (fun u => (u.pc, u.result.map fun r => r.outcome)) (exec (.rsub (.sic false 0)) { s0 with pc := 0x13 }) =
      some (0, some .halt) := by decide

/-! ### Loads and stores (L) -/

theorem test_lda_last_word :
    got (fun u => (u.regA, u.sw)) (exec (.lda (.resolved 3069 false)) (withWord 3069 9 { s0 with sw := 1 })) =
      some (9, 1) := by decide

theorem test_lda_alignment : faultOf (exec (.lda (.resolved 0x31 false)) s0) = some (.engine (.alignmentFault 0x31)) := by decide

/-- L6, one load after another into one state. -/
theorem test_named_loads :
    got (fun u => u.regB) (exec (.ldb at30) (withWord 0x30 7 s0)) = some 7 ∧
    got (fun u => u.regL) (exec (.ldl at30) (withWord 0x30 7 s0)) = some 7 ∧
    got (fun u => u.regS) (exec (.lds at30) (withWord 0x30 7 s0)) = some 7 ∧
    got (fun u => u.regT) (exec (.ldt at30) (withWord 0x30 7 s0)) = some 7 ∧
    got (fun u => u.regX) (exec (.ldx at30) (withWord 0x30 7 s0)) = some 7 := by decide

theorem test_sta_big_endian :
    got (fun u => bytesAt u 0x30 3) (exec (.sta at30) { s0 with regA := 0xFEDCBA }) = some [0xFE, 0xDC, 0xBA] := by decide

/-- L7. -/
theorem test_named_stores :
    [(Instr.stb at30, (1 : Byte)), (.stl at30, 2), (.sts at30, 3), (.stt at30, 4), (.stx at30, 5)].all (fun p =>
      got (fun u => bytesAt u 0x30 3) (exec p.1 { s0 with regB := 1, regL := 2, regS := 3, regT := 4, regX := 5 }) ==
        some [0, 0, p.2]) = true := by decide

theorem test_stx_bounds :
    faultOf (exec (.stx (.resolved 3072 false)) { s0 with regX := 4 }) = some (.engine (.memoryBoundsFault 3072)) := by decide

theorem test_ldch_lanes :
    got (fun u => u.regA) (exec (.ldch at30) (withWord 0x30 0x414243 { s0 with regA := 0x112233 })) = some 0x112241 ∧
    got (fun u => u.regA) (exec (.ldch at30) (withWord 0x30 0x414243 { lane2 with regA := 0x112233 })) =
      some 0x112243 := by decide

theorem test_ldch_zero_upper :
    got (fun u => u.regA) (exec (.ldch at30) (withWord 0x30 0x414243 { zeroUpper with regA := 0x112233 })) =
      some 0x000041 := by decide

theorem test_stch_lanes :
    got (fun u => bytesAt u 0x30 3) (exec (.stch at30) (withWord 0x30 0xAAAAAA { s0 with regA := 0x112233 })) =
      some [0x33, 0xAA, 0xAA] ∧
    got (fun u => bytesAt u 0x30 3) (exec (.stch at30) (withWord 0x30 0xAAAAAA { lane2 with regA := 0x112233 })) =
      some [0xAA, 0xAA, 0x33] := by decide

theorem test_ldf :
    got (fun u => u.regF) (exec (.ldf at30) (withWord 0x30 1 (withWord 0x33 2 s0))) = some 0x000001000002 := by decide

theorem test_stf :
    got (fun u => bytesAt u 0x3C 6) (exec (.stf (.resolved 0x3C false)) { s0 with regF := 0x000345678000 }) =
      some [0x00, 0x03, 0x45, 0x67, 0x80, 0x00] ∧
    faultOf (exec (.stf (.resolved 3069 false)) { s0 with regF := 1 }) = some (.engine (.memoryBoundsFault 3069)) := by decide

/-! ### Clear, compare, shifts, move, index tests (C, H, T) -/

theorem test_clear_keeps_cc :
    got (fun u => (u.regX, u.sw)) (exec (.clear 1) { s0 with regX := 0x123, sw := 1 }) = some (0, 1) := by decide

theorem test_clear_extra_operand :
    got (fun u => (u.regX, u.result.map fun r => r.operands))
      (execute { opcode := .clear, operands := [1, 4], indexed := false, ea := 0x30 } { s0 with regX := 0x123 }) =
      some (0, some [1, 4]) := by decide

theorem test_comp_modes :
    got (fun u => u.sw) (exec (.comp at30) (withWord 0x30 0x800000 { s0 with regA := 0x7FFFFF })) = some 2 ∧
    got (fun u => u.sw) (exec (.comp at30) (withWord 0x30 0x800000 { wrapped with regA := 0x7FFFFF })) = some 1 := by
  decide

theorem test_compr_order :
    got (fun u => u.sw) (exec (.compr 0 4) { s0 with regA := 5, regS := 3 }) = some 2 ∧
    faultOf (exec (.compr 0 9) s0) = some (.engine (.invalidRegisterOrdinalFault 9)) := by decide

theorem test_shiftl :
    got (fun u => (u.regA, u.sw)) (exec (.shiftl 0 4) { s0 with regA := 0x0F0001 }) = some (0xF00010, 1) ∧
    got (fun u => (u.regA, u.sw)) (exec (.shiftl 0 24) { s0 with regA := 0x123456, sw := 1 }) = some (0, 0) := by decide

theorem test_shiftr_logical :
    got (fun u => (u.regA, u.sw)) (exec (.shiftr 0 1) { s0 with regA := 0xFFFFFF }) = some (0x7FFFFF, 2) ∧
    got (fun u => (u.regA, u.sw)) (exec (.shiftr 0 0) { s0 with regA := 0xFFFFFF, sw := 2 }) =
      some (0xFFFFFF, 1) := by decide

theorem test_shift_refused :
    refusalOf (execute { opcode := .shiftl, operands := [0, -1], indexed := false, ea := 0 } s0) = some (.negativeShiftCount .shiftl (-1)) ∧
    refusalOf (execute { opcode := .addr, operands := [0], indexed := false, ea := 0 } s0) = some (.tooFewOperands .addr) := by
  decide

/-- The result record of a hand-built record that faults (S2, R320), with its operands as given. -/
theorem test_fault_record :
    got (fun u => (u.regA, u.result.map fun r => (r.opcode, r.operands, r.newCC, r.outcome)))
      (execute { opcode := .add, operands := [7], indexed := true, ea := 1501 } { s0 with regA := 3 }) =
      some (3, some (.add, [7], none, .fault (.alignmentFault 1501))) ∧
    got (fun u => (u.regX, u.result.map fun r => (r.operands, r.outcome)))
      (execute { opcode := .clear, operands := [6, 1], indexed := false, ea := 0 } { s0 with regX := 2 }) =
      some (2, some ([6, 1], .fault (.invalidRegisterOrdinalFault 6))) := ⟨rfl, rfl⟩

theorem test_rmo :
    got (fun u => (u.regA, u.regX, u.sw)) (exec (.rmo 0 1) { s0 with regA := 0xABCD, sw := 1 }) =
      some (0xABCD, 0xABCD, 1) ∧
    faultOf (exec (.rmo 0 6) s0) = some (.engine (.invalidRegisterOrdinalFault 6)) := by decide

theorem test_tix_wraps :
    got (fun u => (u.regX, u.sw)) (exec (.tix at30) { s0 with regX := 0x7FFFFF }) = some (0x800000, 1) := by decide

theorem test_tix_bound :
    got (fun u => (u.regX, u.sw)) (exec (.tix at30) (withWord 0x30 5 { s0 with regX := 4, sw := 1 })) = some (5, 0) ∧
    faultOf (exec (.tix (.resolved 0x31 false)) { s0 with regX := 4 }) = some (.engine (.alignmentFault 0x31)) := by decide

theorem test_tixr :
    got (fun u => (u.regX, u.sw)) (exec (.tixr 4) { s0 with regX := 9, regS := 3 }) = some (10, 2) ∧
    got (fun u => (u.regX, u.sw)) (exec (.tixr 1) { s0 with regX := 9, sw := 1 }) = some (10, 0) := by decide

/-! ### The loop (K) and the trace (S3) -/

theorem test_k1 : got (fun u => u.status) (step { program [] with pc := 0x60 }) = some (.fetchFault 0x60) := by decide

theorem test_k2 :
    got (fun u => u.status) (step { program (List.replicate 0x5E 0 ++ [0x03, 0x00]) with pc := 0x5E }) =
      some (.fetchFault 0x5E) := by decide

theorem test_k3_k4 :
    got (fun u => u.status) (step (program [0xFF])) = some (.decodeFault 0) ∧
    got (fun u => u.status) (step (program [0, 0, 0])) = some (.decodeFault 0) := by decide

theorem test_k5 : got (fun u => (u.pc, u.status)) (step (program [0x3F, 0, 0])) = some (0, .running) := by decide

theorem test_k6 :
    got (fun u => (bytesAt u 3 3, u.pc, u.status)) (step (program [0x0F, 0x00, 0x03, 0x4F, 0x00, 0x00])) =
      some ([0, 0, 0], 3, .running) := by decide

/-- P4: a fault leaves PC at the faulting instruction. -/
theorem test_step_fault :
    got (fun u => (u.pc, u.status)) (step { program [0, 0, 0, 0x27, 0x00, 0x33] with pc := 3 }) =
      some (3, .faulted (.divideByZeroFault .div)) := by decide

theorem test_step_halt :
    got (fun u => (u.pc, u.status)) (step (program [0x4F, 0, 0])) = some (0, .halted) := by decide

theorem test_trace_text :
    (Trace.word .add 0xFF).text = "ADD: Resultado = 0000FF" ∧
    (Trace.word48 .addf 0xFF).text = "ADDF: Resultado = 0000000000FF" ∧
    (Trace.word .sub 0xFFFFFE).text = "SUB: Resultado = FFFFFE" := by decide

/-! ### Witnesses: every statement's hypotheses are met -/

/-- Well-formed instructions of format 4 and format 2. -/
theorem test_witness_DecodeOfEncodeIsTheInstruction :
    (Instr.and (.extended true 0x12345)).wellFormed = true ∧ (Instr.shiftl 0 15).wellFormed = true := by decide

/-- A well-formed decoding of each kind of operands, with an ignored nibble that is not 0. -/
theorem test_witness_DecodedInstructionsReencode :
    (∃ r, decode [0xB4, 0x1F] = .ok r) ∧ (∃ r, decode [0xB0, 0x35] = .ok r) ∧ (∃ r, decode [0xC4] = .ok r) ∧
    (∃ r, decode [0x1B, 0x8F, 0xFF] = .ok r) ∧
    (∃ r, decode [0x4C, 0xFF, 0xFF] = .ok r) ∧ (∃ r, decode [0x90, 0xFF] = .ok r) ∧
    (∃ r, decode [0xA8, 0x0F] = .ok r) :=
  ⟨⟨_, rfl⟩, ⟨_, rfl⟩, ⟨_, rfl⟩, ⟨_, rfl⟩, ⟨_, rfl⟩, ⟨_, rfl⟩, ⟨_, rfl⟩⟩

theorem test_witness_InstructionLengthRule :
    lengthR90 0xFF 0 = none ∧ lengthR90 0xC4 0 = some 1 ∧ lengthR90 0xB8 0 = some 2 ∧ lengthR90 0x03 0xEF = some 3 ∧
    lengthR90 0x00 0x10 = some 3 ∧ lengthR90 0x01 0x10 = some 4 := by decide

theorem test_witness_AdmittedFormsOnly :
    selectOpcode 0x1B = some .add ∧ selectOpcode 0x4C = some .rsub ∧ selectOpcode 0xC4 = some .fix ∧
    selectOpcode 0x90 = some .addr ∧ selectOpcode 0xB4 = some .clear ∧ selectOpcode 0xA4 = some .shiftl ∧
    selectOpcode 0xB0 = some .svc := by decide

/-- For ResetMeetsTheInvariant and StandardLaunchState. -/
theorem test_witness_configurations : resetConfig.ok = true ∧ { resetConfig with memWords := 1 }.ok = true := by decide

/-- A Bool form of the invariant, for `decide`. -/
theorem inv_of {s : State} (h : (s.config.ok && s.memOk && s.swOk && s.statusOk) = true) : s.Inv := by
  simpa [State.Inv, and_assoc] using h

theorem test_witness_EveryStepKeepsTheInvariant :
    (program [0x0F, 0x00, 0x03, 0x4F]).Inv ∧ ∃ u, step (program [0x0F, 0x00, 0x03, 0x4F]) = .next u :=
  ⟨inv_of (by decide), ⟨_, rfl⟩⟩

/-- An image whose last address is inside memory, the next one outside, and one address given twice. -/
theorem test_witness_StandardLaunchState :
    (launch resetConfig [(3071, 5), (3072, 6), (1, 7), (1, 8)] (-1)).mem = [(1, 8), (3071, 5)] ∧
    (launch resetConfig [] (-1)).pc = 0xFFFFFF := by decide

/-- The bytes of an ADD, a DIV by zero and an RSUB at PC: the three ends of an execute through the loop. -/
theorem test_witness_StepExecutesTheDecodedInstruction :
    (program [0x1B, 0x00, 0x30]).status = .running ∧
    fetchDecode (program [0x1B, 0x00, 0x30]) = .ok (.add (.direct false 0x30), 3) ∧
    (∃ u, exec (.add (.direct false 0x30)) ((program [0x1B, 0x00, 0x30]).setPc 3) = .next u) ∧
    fetchDecode (program [0x27, 0x00, 0x30]) = .ok (.div (.direct false 0x30), 3) ∧
    exec (.div (.direct false 0x30)) ((program [0x27, 0x00, 0x30]).setPc 3) =
      .fault (.engine (.divideByZeroFault .div)) :=
  ⟨rfl, rfl, ⟨_, rfl⟩, rfl, rfl⟩

/-- PC at the end of memory; no opcode at its last byte; a format-3 opcode at the last byte and one that ends at the
end of memory; an inadmissible form. -/
theorem test_witness_StepFollowsTheControlLoop :
    (program []).memSize = 96 ∧ lengthR90 0xFF 0 = none ∧ lengthR90 0x03 0 = some 3 ∧
    fetchDecode { program (List.replicate 95 0 ++ [0xFF]) with pc := 95 } = .error (.decodeFault 95) ∧
    fetchDecode { program (List.replicate 95 0 ++ [0x03]) with pc := 95 } = .error (.fetchFault 95) ∧
    fetchDecode { program (List.replicate 93 0 ++ [0x03]) with pc := 93 } = .ok (.lda (.direct false 0), 3) ∧
    fetchDecode { program (List.replicate 93 0 ++ [0x01]) with pc := 93 } = .error (.decodeFault 93) :=
  ⟨rfl, rfl, rfl, rfl, rfl, rfl, rfl⟩

theorem test_witness_LoopActsOnTheOutcome :
    (∃ u r, exec (.rsub (.sic false 0)) s0 = .next u ∧ u.result = some r ∧ r.outcome = .halt) ∧
    (∃ u r, exec (.rsub (.sic false 0)) { s0 with regL := 1 } = .next u ∧ u.result = some r ∧ r.outcome = .ok) :=
  ⟨⟨_, _, rfl, rfl, rfl⟩, ⟨_, _, rfl, rfl, rfl⟩⟩

theorem test_witness_StoppedMachineTakesNoStep :
    { s0 with status := .halted }.status ≠ .running ∧ { s0 with status := .decodeFault 0 }.status ≠ .running := by decide

theorem test_witness_FaultLeavesEveryRegisterAndByte :
    (program [0x27, 0x00, 0x30]).status = .running ∧
    fetchDecode (program [0x27, 0x00, 0x30]) = .ok (.div (.direct false 0x30), 3) ∧
    exec (.div (.direct false 0x30)) ((program [0x27, 0x00, 0x30]).advance 3) =
      .fault (.engine (.divideByZeroFault .div)) :=
  ⟨rfl, rfl, rfl⟩

theorem test_witness_OnlyRsubWithZeroLHalts :
    (∃ u, step (program [0x4F, 0, 0]) = .next u) ∧
    fetchDecode (program [0x4F, 0, 0]) = .ok (.rsub (.simple (.direct false 0)), 3) ∧
    (∃ u, step (program [0xC4]) = .next u) :=
  ⟨⟨_, rfl⟩, rfl, ⟨_, rfl⟩⟩

theorem test_witness_RunKeepsReservedBitsOfSW :
    (∃ u, Sys2Proof.core.run 1 { program [0xC4] with sw := 2 } = .next u) ∧
    { program [0xC4] with sw := 2 }.sw.toNat < 3 :=
  ⟨⟨_, rfl⟩, by decide⟩

theorem test_witness_FaultsHaveTheirCause :
    exec (.stx (.resolved 1501 false)) s0 = .fault (.engine (.alignmentFault 1501)) ∧
    exec (.ldf (.resolved 3069 false)) s0 = .fault (.engine (.memoryBoundsFault 3069)) ∧
    exec (.shiftr (-1) 3) s0 = .fault (.engine (.invalidRegisterOrdinalFault (-1))) ∧
    exec (.rmo 5 6) s0 = .fault (.engine (.invalidRegisterOrdinalFault 6)) ∧
    exec (.tixr 6) s0 = .fault (.engine (.invalidRegisterOrdinalFault 6)) ∧
    exec (.div (.resolved 3069 false)) s0 = .fault (.engine (.divideByZeroFault .div)) ∧
    exec (.divr 0 1) s0 = .fault (.engine (.divideByZeroFault .divr)) ∧
    exec (.divf (.resolved 3066 false)) s0 = .fault (.engine (.divideByZeroFault .divf)) :=
  ⟨rfl, rfl, rfl, rfl, rfl, rfl, rfl, rfl⟩

theorem test_witness_MisalignedAccessFaults :
    (Instr.ldch (.resolved 1501 false)).opcode ∈ memoryOpcodes ∧
    misaligned (fieldEa (Instr.ldch (.resolved 1501 false)).fields s0) ∧
    misaligned (fieldEa (Instr.tix (.resolved (-1) false)).fields s0) ∧ misaligned (targetEa (.direct false 1) s0) := by
  simp only [misaligned]; decide

/-- The first word outside, the last word for a 48-bit access, and the first negative multiple of 3. -/
theorem test_witness_AccessOutsideMemoryFaults :
    outside s0 (extraWords .add) (fieldEa (Instr.add (.resolved 3072 false)).fields s0) ∧
    outside s0 (extraWords .stf) (fieldEa (Instr.stf (.resolved 3069 false)).fields s0) ∧
    outside s0 (extraWords .ldch) (fieldEa (Instr.ldch (.resolved (-3) false)).fields s0) ∧
    ¬ outside s0 (extraWords .add) 3069 := by
  simp only [outside]; decide

theorem test_witness_BadOrdinalFaults :
    badOrdinal (-1) ∧ badOrdinal 6 ∧ ¬ badOrdinal 0 ∧ ¬ badOrdinal 5 := by
  simp [badOrdinal]

theorem test_witness_ZeroDivisorFaults :
    targetEa (.resolved 3069 false) s0 = 3 * ((1023 : Nat) : Int) ∧ 1023 < s0.config.memWords ∧ wordAt s0 (3 * 1023) = 0 ∧
    s0.reg .s = 0 ∧ targetEa (.resolved 3066 false) s0 = 3 * ((1022 : Nat) : Int) ∧
    1022 + 1 < s0.config.memWords ∧ word48At s0 (3 * 1022) = 0 := by decide

/-- A next state of one instruction of each group whose condition code is stated apart. -/
theorem test_witness_ConditionCodeWriters :
    (∃ u, exec (.add at30) s0 = .next u) ∧ (∃ u, exec (.addr 0 5) s0 = .next u) ∧
    (∃ u, exec (.shiftl 5 23) s0 = .next u) ∧ (∃ u, exec (.comp at30) s0 = .next u) ∧
    (∃ u, exec (.compr 0 5) s0 = .next u) ∧ (∃ u, exec (.tix at30) s0 = .next u) ∧
    (∃ u, exec (.tixr 1) s0 = .next u) ∧ (∃ u, exec (.compf at30) s0 = .next u) ∧
    (∃ u, exec (.addf at30) floatCC = .next u) ∧ (∃ u, exec (.clear 5) s0 = .next u) :=
  ⟨⟨_, rfl⟩, ⟨_, rfl⟩, ⟨_, rfl⟩, ⟨_, rfl⟩, ⟨_, rfl⟩, ⟨_, rfl⟩, ⟨_, rfl⟩, ⟨_, rfl⟩, ⟨_, rfl⟩, ⟨_, rfl⟩⟩

/-- Each register is changed by an instruction R38 lists. -/
theorem test_witness_RegistersChangeOnlyByTheirWriters :
    got (fun u => decide (u.regA ≠ s0.regA)) (exec .fix { s0 with regF := 1 }) = some true ∧
    got (fun u => decide (u.regX ≠ s0.regX)) (exec (.tixr 0) s0) = some true ∧
    got (fun u => decide (u.regL ≠ s0.regL)) (exec (.jsub at30) { s0 with pc := 3 }) = some true ∧
    got (fun u => decide (u.regB ≠ s0.regB)) (exec (.ldb at30) (withWord 0x30 1 s0)) = some true ∧
    got (fun u => decide (u.regS ≠ s0.regS)) (exec (.rmo 0 4) { s0 with regA := 1 }) = some true ∧
    got (fun u => decide (u.regT ≠ s0.regT)) (exec (.ldt at30) (withWord 0x30 1 s0)) = some true ∧
    got (fun u => decide (u.pc ≠ s0.pc)) (exec (.jeq at30) s0) = some true ∧
    got (fun u => decide (u.regF ≠ s0.regF)) (exec .float { s0 with regA := 1 }) = some true := by decide

theorem test_witness_OnlyStoresWriteMemory :
    (∃ u, exec (.lda at30) s0 = .next u) ∧ (Instr.lda at30).opcode ∉ storeOpcodes :=
  ⟨⟨_, rfl⟩, by decide⟩

/-- The last word of memory, and for STF the last pair. -/
theorem test_witness_StoresChangeOnlyTheirBytes :
    (∃ u, exec (.sta (.resolved 3069 false)) s0 = .next u) ∧
    s0.access 0 (targetEa (.resolved 3069 false) s0) = .ok 3069 ∧
    (∃ u, exec (.stch (.resolved 3069 false)) s0 = .next u) ∧ (∃ u, exec (.stf (.resolved 3066 false)) s0 = .next u) ∧
    s0.access 1 (targetEa (.resolved 3066 false) s0) = .ok 3066 :=
  ⟨⟨_, rfl⟩, rfl, ⟨_, rfl⟩, ⟨_, rfl⟩, rfl⟩

theorem test_witness_FIsReadOnlyByItsFamily :
    (Instr.add at30).opcode ∉ [Opcode.addf, .subf, .mulf, .divf, .compf, .fix, .stf, .ldf, .float] ∧
    Instr.float.opcode ∈ [Opcode.ldf, .float] := by decide

theorem test_witness_ConditionCodeIsReadOnlyByJumps :
    (Instr.add at30).opcode ∉ [Opcode.jeq, .jlt, .jgt] ∧ ∃ u, exec (.add at30) s0 = .next u :=
  ⟨by decide, ⟨_, rfl⟩⟩

/-- The addresses and operands that the arithmetic, comparison, load and store statements ask for: the first and the
last word and pair of words inside memory, divisors that are and are not 0, a misaligned address. For
WordArithmeticIntoA, ExtendedArithmeticIntoF, ComparisonsWriteOnlyCC, WordLoadsMoveTheWord, WordStoresWriteTheWord,
CharacterLoadAndStore, ExtendedLoadAndStore and IndexTestsCountAndCompare. -/
theorem test_witness_memory_operands :
    targetEa (.resolved 0 false) s0 = 3 * ((0 : Nat) : Int) ∧ 0 < s0.config.memWords ∧
    targetEa (.resolved 3069 false) s0 = 3 * ((1023 : Nat) : Int) ∧ 1023 < s0.config.memWords ∧
    targetEa (.resolved 3066 false) s0 = 3 * ((1022 : Nat) : Int) ∧ 1022 + 1 < s0.config.memWords ∧
    (wordAt (withWord 3069 1 s0) (3 * 1023)).toInt ≠ 0 ∧ (wordAt s0 (3 * 1023)).toInt = 0 ∧
    (word48At (withWord48 3066 1 s0) (3 * 1022)).toInt ≠ 0 ∧ (word48At s0 (3 * 1022)).toInt = 0 ∧
    misaligned (targetEa (.resolved 3070 false) s0) := by
  simp only [misaligned]; decide

/-- The same statements' clauses on addresses outside memory. -/
theorem test_witness_outside_addresses :
    outside s0 0 (targetEa (.resolved 3072 false) s0) ∧ outside s0 1 (targetEa (.resolved 3069 false) s0) ∧
    outside s0 0 (targetEa (.resolved (-3) false) s0) := by
  simp only [outside]; decide

/-- Also the ordinals of ComparisonsWriteOnlyCC. -/
theorem test_witness_RegisterArithmeticIntoR2 :
    ({ s0 with regS := 2 }.reg .s).toInt ≠ 0 ∧ (s0.reg .s).toInt = 0 ∧ badOrdinal (-1) ∧ ¬ badOrdinal 5 ∧
    badOrdinal 6 := by
  simp only [badOrdinal]; decide

/-- CC 0, 1 and 2 meet each jump's condition, CC 3 none. -/
theorem test_witness_JumpsSetOnlyPC :
    s0.sw.extractLsb' 0 2 = 0 ∧ { s0 with sw := 1 }.sw.extractLsb' 0 2 = 1 ∧
    { s0 with sw := 2 }.sw.extractLsb' 0 2 = 2 ∧ { s0 with sw := 3 }.sw.extractLsb' 0 2 ≠ 0 := by decide

theorem test_witness_SubroutineCallAndReturn : { s0 with regL := 1 }.regL ≠ 0 ∧ s0.regL = 0 := by decide

/-- A JSUB at 0, and at its target 0x20 an RSUB fetched in a state that holds the JSUB's L. -/
theorem test_witness_CallSavesTheReturnAddress :
    (program [0x4B, 0x00, 0x20]).status = .running ∧
    fetchDecode (program [0x4B, 0x00, 0x20]) = .ok (.jsub (.direct false 0x20), 3) ∧
    got (fun u => (u.regL, u.pc)) (step (program [0x4B, 0x00, 0x20])) = some (3, 0x20) ∧
    { program [0x4F, 0, 0] with regL := 3 }.status = .running ∧ { program [0x4F, 0, 0] with regL := 3 }.regL ≠ 0 ∧
    fetchDecode { program [0x4F, 0, 0] with regL := 3 } = .ok (.rsub (.simple (.direct false 0)), 3) :=
  ⟨rfl, rfl, by decide, rfl, by decide, rfl⟩

theorem test_witness_JumpReachesTheEncodedTarget :
    (program [0x3F, 0x00, 0x20]).status = .running ∧
    fetchDecode (program [0x3F, 0x00, 0x20]) = .ok (.j (.direct false 0x20), 3) ∧
    fetchDecode (program [0x3F, 0xA8, 0x00]) = .ok (.j (.pcRelative true 0x800), 3) ∧
    fetchDecode (program [0x3F, 0x4F, 0xFF]) = .ok (.j (.baseRelative false 0xFFF), 3) ∧
    fetchDecode (program [0x3F, 0x1F, 0xFF, 0xFF]) = .ok (.j (.extended false 0xFFFFF), 4) :=
  ⟨rfl, rfl, rfl, rfl, rfl⟩

theorem test_witness_CharacterLoadAndStore :
    s0.config.ldchUpper = .preserve ∧ zeroUpper.config.ldchUpper = .zero ∧
    lane2.config.chLane = 2 ∧ s0.mem.wf = true := by decide

/-- A store, then a load in the state it left. -/
theorem test_witness_StoreThenLoadRestores :
    s0.mem.wf = true ∧
    (∃ u, exec (.sta at30) { s0 with regA := 0xFEDCBA } = .next u ∧ u.config = s0.config ∧
      targetEa at30 u = targetEa at30 s0) ∧
    (∃ u, exec (.stf at30) { s0 with regF := 1 } = .next u ∧ u.config = s0.config) ∧
    (∃ u, exec (.stch at30) s0 = .next u ∧ { u with regA := 0x112233 }.config = s0.config ∧
      { u with regA := 0x112233 }.mem = u.mem ∧ s0.config.ldchUpper = .preserve) ∧
    (∃ u, exec (.stch at30) zeroUpper = .next u ∧ u.config = zeroUpper.config ∧ zeroUpper.config.ldchUpper = .zero) :=
  ⟨by decide, ⟨_, rfl, rfl, rfl⟩, ⟨_, rfl, rfl⟩, ⟨_, rfl, rfl, rfl, rfl⟩, ⟨_, rfl, rfl, rfl⟩⟩

theorem test_witness_ClearAndRegisterMove : badOrdinal 6 ∧ ¬ badOrdinal 0 ∧ badOrdinal (-1) := by
  simp [badOrdinal]

theorem test_witness_ShiftsByAnyCount : (24 ≤ 24) ∧ ¬ (24 ≤ 23) ∧ badOrdinal 7 := by
  simp [badOrdinal]

theorem test_witness_IndexTestsCountAndCompare : GReg.a ≠ .x ∧ badOrdinal 6 := by
  simp [badOrdinal]

/-- X just below its wrap. -/
theorem test_witness_RepeatedTixCounts :
    targetIndexed at30 = false ∧ targetEa at30 s0 = 3 * ((16 : Nat) : Int) ∧ 16 < s0.config.memWords ∧
    s0.config.cmpMode = .exact ∧ { s0 with regX := 0x7FFFFC }.regX.toInt + 3 < 2 ^ 23 := by decide

theorem test_witness_AluIsTwosComplement : (0xFFFFFF : Word) ≠ 0 := by decide

theorem test_witness_CompareModesAgreeInHalfRange :
    |(0x3FFFFF : Word).toInt - (0xC00000 : Word).toInt| < 2 ^ 23 := by decide

theorem test_witness_NamedRegisterWriteTruncates : RegName.f ≠ .a := by decide

/-- An instruction that completes and one that faults. -/
theorem test_witness_ExecuteOfTheRecordIsExec :
    (∃ u, exec (.lda at30) s0 = .next u) ∧ exec (.divr 0 1) s0 = .fault (.engine (.divideByZeroFault .divr)) :=
  ⟨⟨_, rfl⟩, rfl⟩

/-- Each outcome of an execute: Ok, Halt and a fault. -/
theorem test_witness_EveryExecuteReturnsItsRecord :
    [Opcode.jlt, .rsub, .divf].map (fun op => got (fun u => u.result.map fun x => (x.outcome, x.condMet))
      (execute { opcode := op, operands := [], indexed := false, ea := 0 } s0)) =
      [some (some (.ok, some false)), some (some (.halt, none)),
        some (some (.fault (.divideByZeroFault .divf), none))] := by decide

theorem test_witness_StepExecutesTheDecodedRecord :
    (program [0x27, 0x00, 0x30]).status = .running ∧
    fetchDecode (program [0x27, 0x00, 0x30]) = .ok (.div (.direct false 0x30), 3) ∧
    fetchDecode (program [0x4F, 0, 0]) = .ok (.rsub (.simple (.direct false 0)), 3) ∧
    fetchDecode (program [0xC4]) = .ok (.fix, 1) :=
  ⟨rfl, rfl, rfl, rfl⟩

theorem test_witness_ExtraOperandsAreIgnored :
    2 ≤ [(0 : Int), 3].length ∧ 1 ≤ [(1 : Int)].length := by decide

theorem test_witness_RecordsRefusedExactly :
    execute { opcode := .clear, operands := [], indexed := false, ea := 0 } s0 = .refused (.tooFewOperands .clear) ∧
    (∃ u, execute { opcode := .shiftr, operands := [0, 24], indexed := false, ea := 0 } s0 = .next u) :=
  ⟨rfl, ⟨_, rfl⟩⟩

end Sys2Proof.Tests
end

section
/-! PROOFS. The statements of 00_scope.md: the reset state meets the invariant, and registers are written by name. -/

namespace Sys2Proof.Machine

/-! ### The reset state (R37, R340): each part of the invariant -/

/-- Memory after reset lists no byte, so no listed byte is out of order or out of capacity (R35, R37). -/
@[simp] theorem resetWith_memOk (c : Config) : (State.resetWith c).memOk = true := rfl

/-- SW is 0 after reset, so CC is not the pattern 3 (R34, R37). -/
@[simp] theorem resetWith_swOk (c : Config) : (State.resetWith c).swOk = true := rfl

/-- The status after reset is Running, which needs no explanation (R340). -/
@[simp] theorem resetWith_statusOk (c : Config) : (State.resetWith c).statusOk = true := rfl

/-- The configuration alone decides whether the reset state meets the invariant (R8). -/
theorem resetWith_inv_iff (c : Config) : (State.resetWith c).Inv ↔ c.ok = true := by
  constructor
  · rintro ⟨hconfig, -, -, -⟩
    exact hconfig
  · intro hconfig
    exact ⟨hconfig, resetWith_memOk c, resetWith_swOk c, resetWith_statusOk c⟩

/-- The configuration of the reset machine is one R8 allows. -/
theorem resetConfig_ok : resetConfig.ok = true := by decide

/-- Settles O8, from the invariant's four parts at reset. -/
theorem resetMeetsTheInvariant : Obligations.ResetMeetsTheInvariant := by
  unfold Obligations.ResetMeetsTheInvariant
  exact ⟨(resetWith_inv_iff resetConfig).2 resetConfig_ok, fun c hc => (resetWith_inv_iff c).2 hc⟩

/-! ### Registers by name (R22, R23) -/

/-- A register read by name after a write by name: the integer truncated to the register's width (48 bits for F, 24 for
the others) in the register written, the old value elsewhere (R11, R22, R23). -/
theorem readNamed_writeNamed (r r' : RegName) (n : Int) (s : State) :
    (s.writeNamed r n).readNamed r' =
      if r = r' then (if r = .f then (trunc 48 n).toInt else (trunc 24 n).toInt) else s.readNamed r' := by
  cases r <;> cases r' <;> rfl

theorem readNamed_writeNamed_same (r : RegName) (n : Int) (s : State) :
    (s.writeNamed r n).readNamed r = if r = .f then (trunc 48 n).toInt else (trunc 24 n).toInt := by
  rw [readNamed_writeNamed, if_pos rfl]

theorem readNamed_writeNamed_other {r r' : RegName} (hne : r' ≠ r) (n : Int) (s : State) :
    (s.writeNamed r n).readNamed r' = s.readNamed r' := by
  rw [readNamed_writeNamed, if_neg hne.symm]

/-- Settles O53, from the read of the written register and the frame of the other eight. -/
theorem namedRegisterWriteTruncates : Obligations.NamedRegisterWriteTruncates := by
  unfold Obligations.NamedRegisterWriteTruncates
  intro r r' n s
  exact ⟨readNamed_writeNamed_same r n s, fun hne => readNamed_writeNamed_other hne n s⟩

end Sys2Proof.Machine
end

section
/-! PROOFS. 10_state.md: what reset leaves, the two comparison modes, and what every step keeps, the reserved bits of SW
and the invariant among it. -/

namespace Sys2Proof.Machine

/-! ### Reset (R37, R340) -/

/-- Settles O7, register by register; memory after reset lists no byte. -/
theorem resetZeroesEverything : Obligations.ResetZeroesEverything := by
  unfold Obligations.ResetZeroesEverything
  refine ⟨fun c => ⟨fun r => ?_, fun _ => rfl, rfl, ?_, rfl⟩, rfl⟩
  · cases r <;> rfl
  · simp [State.swReserved, State.resetWith]

/-! ### The comparison modes (R31) -/

theorem ccSignInt_eq_eq_iff (d : Int) : ccSignInt d = .eq ↔ d = 0 := by
  unfold ccSignInt
  split_ifs <;> simp_all

theorem ccSignInt_eq_lt_iff (d : Int) : ccSignInt d = .lt ↔ d < 0 := by
  unfold ccSignInt
  split_ifs <;> simp_all

theorem ccSignInt_eq_gt_iff (d : Int) : ccSignInt d = .gt ↔ 0 < d := by
  unfold ccSignInt
  split_ifs <;> simp <;> omega

/-- Truncating an integer of less than half range loses nothing (R9, R10). -/
theorem toInt_trunc_of_abs_lt {w : Nat} {d : Int} (h : |d| < 2 ^ w) : (trunc (w + 1) d).toInt = d := by
  obtain ⟨hlo, hhi⟩ := abs_lt.1 h
  exact BitVec.toInt_ofInt_eq_self w.succ_pos (by simpa using hlo.le) (by simpa using hhi)

/-- Settles O52: the exact mode is the sign of the difference, and the wrapped mode takes the sign of the same integer
where truncating the difference loses nothing. -/
theorem compareModesAgreeInHalfRange : Obligations.CompareModesAgreeInHalfRange := by
  unfold Obligations.CompareModesAgreeInHalfRange
  intro w a b
  refine ⟨?_, ?_, ?_, fun h => ?_⟩
  · rw [ccCmp, ccSignInt_eq_eq_iff, sub_eq_zero, BitVec.toInt_inj]
  · rw [ccCmp, ccSignInt_eq_lt_iff, sub_neg]
  · rw [ccCmp, ccSignInt_eq_gt_iff, sub_pos]
  · rw [ccCmp, ccCmp, ccSign, toInt_trunc_of_abs_lt h]

/-! ### What an execute that ends keeps -/

section
variable {op : Opcode} {s t : State}

/-- No execute writes the parameters (R8). -/
theorem Done.config (h : Done op s t) : t.config = s.config := by
  obtain ⟨s', r, he, rfl, -, -⟩ := h
  rw [finish_config, he.config]

/-- No execute writes the loop's status (R350). -/
theorem Done.status (h : Done op s t) : t.status = s.status := by
  obtain ⟨s', r, he, rfl, -, -⟩ := h
  rw [finish_status, he.status]

/-- The result record says Ok, or Halt for RSUB with L = 0 (R196, R320). -/
theorem Done.result (h : Done op s t) : ∃ r, t.result = some r ∧ r.opcode = op ∧
    (r.outcome = .ok ∨ (r.outcome = .halt ∧ op = .rsub ∧ t.pc = 0 ∧ t.regL = 0)) := by
  obtain ⟨s', r, -, rfl, hop, hout⟩ := h
  refine ⟨_, finish_result r s', hop, ?_⟩
  rcases hout with hok | ⟨hhalt, hrsub, -, hpc, hregL⟩
  · exact .inl hok
  · exact .inr ⟨hhalt, hrsub, hpc, hregL⟩

/-- An execute keeps memory in canonical form and inside its capacity (R35). -/
theorem Done.memOk (h : Done op s t) (hs : s.memOk = true) : t.memOk = true := by
  obtain ⟨s', r, he, rfl, -, -⟩ := h
  obtain ⟨hwf, hbelow⟩ := Bool.and_eq_true_iff.1 hs
  have hsize : s'.memSize = s.memSize := by rw [State.memSize, he.config, State.memSize]
  simp [State.memOk, hsize, he.wf hwf, he.below hbelow]

end

/-! ### What a step and a run keep of SW and the parameters -/

/-- What R34 and R8 say of two states of one run: the reserved bits of SW and the parameters are the same, and SW is one
of 0, 1, 2 if it was. -/
structure KeepsSW (s u : State) : Prop where
  reserved : u.swReserved = s.swReserved
  valid : s.sw.toNat < 3 → u.sw.toNat < 3
  config : u.config = s.config

theorem KeepsSW.refl (s : State) : KeepsSW s s := ⟨rfl, id, rfl⟩

theorem KeepsSW.trans {s t u : State} (h : KeepsSW s t) (h' : KeepsSW t u) : KeepsSW s u :=
  ⟨h'.reserved.trans h.reserved, h'.valid ∘ h.valid, h'.config.trans h.config⟩

theorem KeepsSW.of_eq {s u : State} (hsw : u.sw = s.sw) (hconfig : u.config = s.config) : KeepsSW s u :=
  ⟨by rw [State.swReserved, hsw, State.swReserved], by rw [hsw]; exact id, hconfig⟩

/-- Writing a condition code of R27 keeps SW so. -/
theorem KeepsSW.setCC (c : CC) (s : State) : KeepsSW s (s.setCC c) where
  reserved := setCC_swReserved c s
  valid h := by
    have hcode := c.code_lt
    rw [setCC_sw_toNat, swReserved_toNat]
    omega
  config := rfl

theorem KeepsSW.finish (r : Report) (s : State) : KeepsSW s (s.finish r) := by
  refine .trans ?_ (.of_eq (finish_sw r s) (by simp))
  cases r.newCC with
  | none => exact .refl s
  | some c => exact .setCC c s

theorem Done.keepsSW {op : Opcode} {s t : State} (h : Done op s t) : KeepsSW s t := by
  obtain ⟨s', r, he, rfl, -, -⟩ := h
  exact .trans (.of_eq he.sw he.config) (.finish r s')

theorem step_keepsSW {s u : State} (h : step s = .next u) : KeepsSW s u := by
  obtain ⟨-, ⟨st, -, rfl⟩ | ⟨i, len, t, -, hexec, rfl⟩ | ⟨i, len, f, -, -, rfl⟩⟩ := step_cases h
  · exact .of_eq rfl rfl
  · have ht : KeepsSW s t := .trans (.of_eq (advance_sw len s) (advance_config len s)) (exec_next hexec).keepsSW
    exact ht.trans (.of_eq (observe_sw t) (observe_config t))
  · exact .of_eq rfl rfl

/-- A run of `n + 1` steps that answers a next state is a step and a run of `n`. -/
theorem coreRun_succ_eq_next {M : Host.Core} {n : Nat} {s u : M.State} (h : M.run (n + 1) s = .next u) :
    ∃ t, M.step s = .next t ∧ M.run n t = .next u := by
  unfold Host.Core.run at h
  split at h
  · exact ⟨_, ‹_›, h⟩
  · cases h
  · cases h

/-- A reflexive and transitive relation that every step keeps holds over every run. -/
theorem coreRun_induction {M : Host.Core} {R : M.State → M.State → Prop} (refl : ∀ s, R s s)
    (trans : ∀ {s t u}, R s t → R t u → R s u) (hstep : ∀ {s u}, M.step s = .next u → R s u) :
    ∀ (n : Nat) {s u : M.State}, M.run n s = .next u → R s u
  | 0, s, u, h => by
    cases h
    exact refl s
  | n + 1, s, u, h => by
    obtain ⟨t, ht, hrun⟩ := coreRun_succ_eq_next h
    exact trans (hstep ht) (coreRun_induction refl trans hstep n hrun)

/-- Settles O18, by induction on the steps of the run. -/
theorem runKeepsReservedBitsOfSW : Obligations.RunKeepsReservedBitsOfSW := by
  unfold Obligations.RunKeepsReservedBitsOfSW
  intro n s u h
  obtain ⟨hreserved, hvalid, hconfig⟩ : KeepsSW s u :=
    coreRun_induction (M := Sys2Proof.core) KeepsSW.refl KeepsSW.trans step_keepsSW n h
  exact ⟨hreserved, hvalid, hconfig⟩

/-! ### The invariant (R34, R35, R196, R308, R350) -/

/-- A failed fetch or decode stops with a status that names PC (R350). -/
theorem fetchDecode_eq_error {s : State} {st : Status} (h : fetchDecode s = .error st) :
    st = .fetchFault s.pc.toNat ∨ st = .decodeFault s.pc.toNat := by
  unfold fetchDecode at h
  split at h
  · cases h
  · next e _ =>
    cases h
    cases e <;> simp [stopStatus]

theorem step_keeps_memOk {s u : State} (h : step s = .next u) (hs : s.memOk = true) : u.memOk = true := by
  obtain ⟨-, ⟨st, -, rfl⟩ | ⟨i, len, t, -, hexec, rfl⟩ | ⟨i, len, f, -, -, rfl⟩⟩ := step_cases h
  · exact hs
  · have ht : t.memOk = true := (exec_next hexec).memOk hs
    simpa [State.memOk, State.memSize] using ht
  · exact hs

/-- After an execute the loop runs on, or is Halted as RSUB with L = 0 leaves it (R196, R322, R350). -/
theorem Done.observe_statusOk {op : Opcode} {s t : State} (h : Done op s t) (hs : s.status = .running) :
    t.observe.statusOk = true := by
  obtain ⟨r, hr, hop, hok | ⟨hhalt, hrsub, hpc, hregL⟩⟩ := h.result
  · have hrun : t.observe.status = .running := by rw [observe_status t r hr, hok, h.status, hs]
    rw [State.statusOk, hrun]
  · have hhalted : t.observe.status = .halted := by rw [observe_status t r hr, hhalt]
    simp [State.statusOk, hhalted, hr, hpc, hregL, hop, hrsub, hhalt]

/-- The status a step leaves is the one the state explains, whatever the status before it. -/
theorem step_statusOk {s u : State} (h : step s = .next u) : u.statusOk = true := by
  obtain ⟨hrun, ⟨st, hst, rfl⟩ | ⟨i, len, t, -, hexec, rfl⟩ | ⟨i, len, f, -, -, rfl⟩⟩ := step_cases h
  · rcases fetchDecode_eq_error hst with rfl | rfl <;> simp [State.statusOk]
  · exact (exec_next hexec).observe_statusOk hrun
  · simp [State.statusOk, Report.result]

/-- Settles O9, from the parts of the invariant, each kept by every step. -/
theorem everyStepKeepsTheInvariant : Obligations.EveryStepKeepsTheInvariant := by
  unfold Obligations.EveryStepKeepsTheInvariant
  rintro s u ⟨hconfig, hmem, hsw, -⟩ h
  have hkeeps := step_keepsSW h
  refine ⟨hkeeps.config ▸ hconfig, step_keeps_memOk h hmem, ?_, step_statusOk h⟩
  exact decide_eq_true (hkeeps.valid (of_decide_eq_true hsw))

end Sys2Proof.Machine
end

section
/-! PROOFS. 10_state.md: bad ordinals, and what an execute may write: a register, PC, F, memory and CC each only by its
own instructions. -/

namespace Sys2Proof.Machine

/-! ### Bad ordinals (R21, R140, R302, R307) -/

/-- An execute whose check fails ends with that fault (R110). -/
theorem orFault_of_error {α : Type} {r : Except EngineFault α} {f : EngineFault} (h : r = .error f)
    (k : α → Answer) : orFault r k = .fault (.engine f) := by
  rw [h, orFault_error]

/-- Settles O22: every one of the ten checks its ordinals before anything else, r1 before r2. -/
theorem badOrdinalFaults : Obligations.BadOrdinalFaults := by
  unfold Obligations.BadOrdinalFaults
  intro s r1 r2 n
  simp only [List.forall_mem_cons, List.not_mem_nil, false_implies, implies_true, and_true]
  refine ⟨fun h1 => ?_, fun h1 h2 => ?_⟩
  · have pair := orFault_of_error (ordinalRegs_bad_r1 r2 h1)
    have single := orFault_of_error (ordinalReg_outside h1)
    exact ⟨pair _, pair _, pair _, pair _, pair _, pair _, single _, single _, single _, single _⟩
  · have pair := orFault_of_error (ordinalRegs_bad_r2 h1 h2)
    exact ⟨pair _, pair _, pair _, pair _, pair _, pair _⟩

/-- The second register of a pair is the one r2 names (R140). -/
theorem ordinalRegs_ok_snd {r1 r2 : Int} {g : GReg × GReg} (h : ordinalRegs r1 r2 = .ok g) :
    ordinalReg r2 = .ok g.2 := by
  obtain ⟨-, h2⟩ := ordinalRegs_eq_ok.1 h
  exact ordinalReg_eq_ok.2 h2

/-! ### What holds of the next state of an answer -/

/-- If the answer is a next state, `P` holds of it. -/
def EndsIn (P : State → Prop) (a : Answer) : Prop := ∀ u, a = .next u → P u

theorem EndsIn.next {P : State → Prop} {u : State} (h : P u) : EndsIn P (.next u) := by
  rintro _ ⟨⟩
  exact h

theorem EndsIn.orFault {α : Type} {P : State → Prop} {r : Except EngineFault α} {k : α → Answer}
    (h : ∀ v, r = .ok v → EndsIn P (k v)) : EndsIn P (orFault r k) := by
  intro u hu
  obtain ⟨v, hv, hk⟩ := orFault_eq_next.1 hu
  exact h v hv u hk

/-! ### Which instructions write what (R32, R38, R62) -/

/-- The instructions that write a general register by name (R38). -/
def namedWriter (op : Opcode) : GReg → Bool
  | .a => decide (op ∈ [Opcode.add, .sub, .mul, .div, .and, .or, .lda, .ldch, .fix])
  | .x => decide (op ∈ [Opcode.ldx, .tix, .tixr])
  | .l => decide (op ∈ [Opcode.ldl, .jsub])
  | .b => decide (op = .ldb)
  | .s => decide (op = .lds)
  | .t => decide (op = .ldt)

/-- The ordinal of the register an instruction writes, where its destination is an ordinal (R38). -/
def destinationOrdinal : Instr → Option Int
  | .addr _ r2 | .subr _ r2 | .mulr _ r2 | .divr _ r2 | .rmo _ r2 => some r2
  | .clear r1 | .shiftl r1 _ | .shiftr r1 _ => some r1
  | _ => none

/-- The instructions that write PC (R38). -/
def writesPc (op : Opcode) : Bool := decide (op ∈ [Opcode.j, .jeq, .jlt, .jgt, .jsub, .rsub])

/-- The instructions that write F (R38). -/
def writesF (op : Opcode) : Bool := decide (op ∈ [Opcode.addf, .subf, .mulf, .divf, .float, .ldf])

/-- The instructions that write memory (R62). -/
def writesMem (op : Opcode) : Bool := decide (op ∈ storeOpcodes)

/-- The instructions that may write CC (R32). -/
def writesCC (op : Opcode) : Bool :=
  decide (op ∈ [Opcode.add, .sub, .mul, .div, .and, .or, .addr, .subr, .mulr, .divr, .shiftl, .shiftr, .comp, .compr,
    .tix, .tixr, .compf, .addf, .subf, .mulf, .divf])

/-- What instruction `i` may change from `s` to `u`: each part of the state is as it was, or is one `i` writes. -/
structure Footprint (i : Instr) (s u : State) : Prop where
  reg : ∀ g, u.reg g = s.reg g ∨ namedWriter i.opcode g = true ∨ destinationOrdinal i = some g.ordinal
  pc : u.pc = s.pc ∨ writesPc i.opcode = true
  regF : u.regF = s.regF ∨ writesF i.opcode = true
  mem : u.mem = s.mem ∨ writesMem i.opcode = true
  sw : u.sw = s.sw ∨ writesCC i.opcode = true

section
variable {i : Instr} {s : State}

theorem Footprint.refl (i : Instr) (s : State) : Footprint i s s := by
  constructor <;> simp

theorem Footprint.setReg {g : GReg} {v : Word}
    (h : namedWriter i.opcode g = true ∨ destinationOrdinal i = some g.ordinal) : Footprint i s (s.setReg g v) where
  reg g' := by
    by_cases hg : g = g'
    · exact .inr (hg ▸ h)
    · exact .inl (reg_setReg_other hg v s)
  pc := .inl (setReg_pc g v s)
  regF := .inl (setReg_regF g v s)
  mem := .inl (setReg_mem g v s)
  sw := .inl (setReg_sw g v s)

/-- A register written by an instruction that names it. -/
theorem Footprint.setNamed {g : GReg} {v : Word} (h : namedWriter i.opcode g = true) :
    Footprint i s (s.setReg g v) := .setReg (.inl h)

/-- A register written by an instruction whose destination is an ordinal. -/
theorem Footprint.setOrdinal {o : Int} {g : GReg} {v : Word} (hg : ordinalReg o = .ok g)
    (hdest : destinationOrdinal i = some o) : Footprint i s (s.setReg g v) :=
  .setReg (.inr (hdest.trans (congrArg some (ordinalReg_eq_ok.1 hg))))

theorem Footprint.setPc {n : Int} (h : writesPc i.opcode = true) : Footprint i s (s.setPc n) :=
  ⟨fun g => .inl (reg_setPc g n s), .inr h, .inl rfl, .inl rfl, .inl rfl⟩

theorem Footprint.setF {v : Word48} (h : writesF i.opcode = true) : Footprint i s (s.setF v) :=
  ⟨fun g => .inl (reg_setF g v s), .inl rfl, .inr h, .inl rfl, .inl rfl⟩

theorem Footprint.setMem {m : Memory} (h : writesMem i.opcode = true) : Footprint i s { s with mem := m } :=
  ⟨fun g => .inl (by cases g <;> rfl), .inl rfl, .inl rfl, .inr h, .inl rfl⟩

theorem Footprint.trans {t u : State} (h : Footprint i s t) (h' : Footprint i t u) : Footprint i s u where
  reg g := (h'.reg g).elim (fun e => e ▸ h.reg g) .inr
  pc := h'.pc.elim (fun e => e ▸ h.pc) .inr
  regF := h'.regF.elim (fun e => e ▸ h.regF) .inr
  mem := h'.mem.elim (fun e => e ▸ h.mem) .inr
  sw := h'.sw.elim (fun e => e ▸ h.sw) .inr

/-- Ending an execute changes SW alone, and that only where a condition code is reported (R28, R32). -/
theorem Footprint.finish {s' : State} {r : Report} (h : Footprint i s s')
    (hcc : r.newCC = none ∨ writesCC i.opcode = true) : Footprint i s (s'.finish r) := by
  refine h.trans ⟨fun g => .inl (reg_finish g r s'), .inl (finish_pc r s'), .inl (finish_regF r s'),
    .inl (finish_mem r s'), hcc.imp_left fun hnone => ?_⟩
  rw [finish_sw, hnone, setOptCC_none]

theorem accumulate_footprint {op : Opcode} {r : Word} (hA : namedWriter i.opcode .a = true)
    (hcc : writesCC i.opcode = true) : EndsIn (Footprint i s) (accumulate op r s) :=
  .next (.finish (.setNamed hA) (.inr hcc))

theorem intoReg_footprint {op : Opcode} {r1 r2 : Int} {g : GReg × GReg} {r : Word}
    (hg : ordinalRegs r1 r2 = .ok g) (hdest : destinationOrdinal i = some r2) (hcc : writesCC i.opcode = true) :
    EndsIn (Footprint i s) (intoReg op r1 r2 g.2 r s) :=
  .next (.finish (.setOrdinal (ordinalRegs_ok_snd hg) hdest) (.inr hcc))

theorem intoShifted_footprint {op : Opcode} {r1 : Int} {n : Nat} {g : GReg} {r : Word}
    (hg : ordinalReg r1 = .ok g) (hdest : destinationOrdinal i = some r1) (hcc : writesCC i.opcode = true) :
    EndsIn (Footprint i s) (intoShifted op r1 n g r s) :=
  .next (.finish (.setOrdinal hg hdest) (.inr hcc))

theorem intoF_footprint {op : Opcode} {r : Word48} (hF : writesF i.opcode = true) (hcc : writesCC i.opcode = true) :
    EndsIn (Footprint i s) (intoF op r s) :=
  .next (.finish (.setF hF) (.inr hcc))

theorem skip_footprint {op : Opcode} {l : List Int} : EndsIn (Footprint i s) (skip op l s) :=
  .next (.finish (.refl i s) (.inl rfl))

theorem jumpIf_footprint {op : Opcode} {c : CC} {t : Target} (hpc : writesPc i.opcode = true) :
    EndsIn (Footprint i s) (jumpIf op c t s) := by
  unfold jumpIf
  split_ifs
  · exact .next (.finish (.setPc hpc) (.inl rfl))
  · exact .next (.finish (.refl i s) (.inl rfl))

theorem execRsub_footprint (f : Form) (hpc : writesPc i.opcode = true) :
    EndsIn (Footprint i s) (execRsub f s) := by
  unfold execRsub
  split_ifs
  · exact .next (.finish (.setPc hpc) (.inl rfl))
  · exact .next (.finish (.setPc hpc) (.inl rfl))

theorem loadWord_footprint {op : Opcode} {g : GReg} {t : Target} (hg : namedWriter i.opcode g = true) :
    EndsIn (Footprint i s) (loadWord op g t s) :=
  .orFault fun _ _ => .next (.finish (.setNamed hg) (.inl rfl))

/-- A checked word write writes memory alone (R55). -/
theorem writeWord_footprint {ea : Int} {v : Word} {s' : State} (h : s.writeWord ea v = .ok s')
    (hmem : writesMem i.opcode = true) : Footprint i s s' := by
  obtain ⟨a, -, rfl⟩ := writeWord_eq_ok.1 h
  exact .setMem hmem

/-- A checked byte write writes memory alone (R56). -/
theorem writeByte_footprint {ea : Int} {v : Byte} {s' : State} (h : s.writeByte ea v = .ok s')
    (hmem : writesMem i.opcode = true) : Footprint i s s' := by
  obtain ⟨a, -, rfl⟩ := writeByte_eq_ok.1 h
  exact .setMem hmem

/-- A checked 48-bit write writes memory alone (R58). -/
theorem write48_footprint {ea : Int} {v : Word48} {s' : State} (h : s.write48 ea v = .ok s')
    (hmem : writesMem i.opcode = true) : Footprint i s s' := by
  obtain ⟨a, -, rfl⟩ := write48_eq_ok.1 h
  exact .setMem hmem

theorem storeWord_footprint {op : Opcode} {g : GReg} {t : Target} (hmem : writesMem i.opcode = true) :
    EndsIn (Footprint i s) (storeWord op g t s) :=
  .orFault fun _ h => .next (.finish (writeWord_footprint h hmem) (.inl rfl))

end

/-- Every execute that ends stays within its instruction's footprint. -/
theorem exec_footprint (i : Instr) (s : State) : EndsIn (Footprint i s) (exec i s) := by
  cases i with
  | add t => exact .orFault fun _ _ => accumulate_footprint rfl rfl
  | sub t => exact .orFault fun _ _ => accumulate_footprint rfl rfl
  | mul t => exact .orFault fun _ _ => accumulate_footprint rfl rfl
  | div t => exact .orFault fun _ _ => .orFault fun _ _ => accumulate_footprint rfl rfl
  | and t => exact .orFault fun _ _ => accumulate_footprint rfl rfl
  | or t => exact .orFault fun _ _ => accumulate_footprint rfl rfl
  | addr r1 r2 => exact .orFault fun _ h => intoReg_footprint h rfl rfl
  | subr r1 r2 => exact .orFault fun _ h => intoReg_footprint h rfl rfl
  | mulr r1 r2 => exact .orFault fun _ h => intoReg_footprint h rfl rfl
  | divr r1 r2 => exact .orFault fun _ h => .orFault fun _ _ => intoReg_footprint h rfl rfl
  | addf t => exact .orFault fun _ _ => intoF_footprint rfl rfl
  | subf t => exact .orFault fun _ _ => intoF_footprint rfl rfl
  | mulf t => exact .orFault fun _ _ => intoF_footprint rfl rfl
  | divf t => exact .orFault fun _ _ => .orFault fun _ _ => intoF_footprint rfl rfl
  | compf t => exact .orFault fun _ _ => .next (.finish (.refl _ _) (.inr rfl))
  | fix => exact .next (.finish (.setNamed rfl) (.inl rfl))
  | float => exact .next (.finish (.setF rfl) (.inl rfl))
  | norm => exact skip_footprint
  | sio => exact skip_footprint
  | ssk f => exact skip_footprint
  | rd f => exact skip_footprint
  | tio => exact skip_footprint
  | td f => exact skip_footprint
  | svc n => exact skip_footprint
  | wd f => exact skip_footprint
  | lps f => exact skip_footprint
  | sti f => exact skip_footprint
  | j t => exact .next (.finish (.setPc rfl) (.inl rfl))
  | jeq t => exact jumpIf_footprint rfl
  | jlt t => exact jumpIf_footprint rfl
  | jgt t => exact jumpIf_footprint rfl
  | jsub t => exact .next (.finish (.trans (.setNamed rfl) (.setPc rfl)) (.inl rfl))
  | rsub f => exact execRsub_footprint f rfl
  | lda t => exact loadWord_footprint rfl
  | ldb t => exact loadWord_footprint rfl
  | ldl t => exact loadWord_footprint rfl
  | lds t => exact loadWord_footprint rfl
  | ldt t => exact loadWord_footprint rfl
  | ldx t => exact loadWord_footprint rfl
  | sta t => exact storeWord_footprint rfl
  | stb t => exact storeWord_footprint rfl
  | stl t => exact storeWord_footprint rfl
  | sts t => exact storeWord_footprint rfl
  | stt t => exact storeWord_footprint rfl
  | stx t => exact storeWord_footprint rfl
  | ldch t => exact .orFault fun _ _ => .next (.finish (.setNamed rfl) (.inl rfl))
  | stch t => exact .orFault fun _ h => .next (.finish (writeByte_footprint h rfl) (.inl rfl))
  | ldf t => exact .orFault fun _ _ => .next (.finish (.setF rfl) (.inl rfl))
  | stf t => exact .orFault fun _ h => .next (.finish (write48_footprint h rfl) (.inl rfl))
  | clear r1 => exact .orFault fun _ h => .next (.finish (.setOrdinal h rfl) (.inl rfl))
  | comp t => exact .orFault fun _ _ => .next (.finish (.refl _ _) (.inr rfl))
  | compr r1 r2 => exact .orFault fun _ _ => .next (.finish (.refl _ _) (.inr rfl))
  | shiftl r1 n => exact .orFault fun _ h => intoShifted_footprint h rfl rfl
  | shiftr r1 n => exact .orFault fun _ h => intoShifted_footprint h rfl rfl
  | rmo r1 r2 => exact .orFault fun _ h => .next (.finish (.setOrdinal (ordinalRegs_ok_snd h) rfl) (.inl rfl))
  | tix t => exact .orFault fun _ _ => .next (.finish (.setNamed rfl) (.inr rfl))
  | tixr r1 => exact .orFault fun _ _ => .next (.finish (.setNamed rfl) (.inr rfl))

/-- Settles O26, from the footprint: memory is the same list of bytes. -/
theorem onlyStoresWriteMemory : Obligations.OnlyStoresWriteMemory := by
  unfold Obligations.OnlyStoresWriteMemory
  intro i s u h hstore a
  have hmem : u.mem = s.mem := (exec_footprint i s u h).mem.resolve_right fun hw => hstore (of_decide_eq_true hw)
  rw [hmem]

/-- Settles O25, from the footprint, register by register. -/
theorem registersChangeOnlyByTheirWriters : Obligations.RegistersChangeOnlyByTheirWriters := by
  unfold Obligations.RegistersChangeOnlyByTheirWriters
  intro i s u h byOrdinal
  have hfoot := exec_footprint i s u h
  have hdest (g : GReg) (hg : destinationOrdinal i = some g.ordinal) : byOrdinal g := by
    cases i <;> simp_all [destinationOrdinal, byOrdinal]
  have hreg (g : GReg) (hne : u.reg g ≠ s.reg g) : namedWriter i.opcode g = true ∨ byOrdinal g :=
    ((hfoot.reg g).resolve_left hne).imp_right (hdest g)
  refine ⟨fun hA => ?_, fun hX => ?_, fun hL => ?_, fun hB => ?_, fun hS => ?_, fun hT => ?_, fun hpc => ?_,
    fun hF => ?_⟩
  · exact (hreg .a hA).imp_left of_decide_eq_true
  · exact (hreg .x hX).imp_left of_decide_eq_true
  · exact (hreg .l hL).imp_left of_decide_eq_true
  · exact (hreg .b hB).imp_left of_decide_eq_true
  · exact (hreg .s hS).imp_left of_decide_eq_true
  · exact (hreg .t hT).imp_left of_decide_eq_true
  · exact of_decide_eq_true (hfoot.pc.resolve_left hpc)
  · exact of_decide_eq_true (hfoot.regF.resolve_left hF)

/-! ### The condition code each instruction writes (R32) -/

/-- SW after an execute ends: the condition code of its report, if it names one (R28). -/
theorem finish_sw_eq_swWithCC (r : Report) (s : State) : (s.finish r).sw = swWithCC s.sw r.newCC :=
  setOptCC_sw r.newCC s

/-- A word operand that was read is the word at its aligned address (R53, R54). -/
theorem readWord_ok_wordAt {s : State} {ea : Int} {m : Word} (h : s.readWord ea = .ok m) :
    ∃ w : Nat, ea = 3 * (w : Int) ∧ m = wordAt s (3 * w) := by
  obtain ⟨a, ha, rfl⟩ := readWord_eq_ok.1 h
  obtain ⟨hea, h3, -⟩ := access_eq_ok.1 ha
  obtain ⟨w, rfl⟩ : ∃ w, a = 3 * w := ⟨a / 3, by omega⟩
  exact ⟨w, by omega, rfl⟩

/-- A 48-bit operand that was read is the value at its aligned address (R53, R57). -/
theorem read48_ok_word48At {s : State} {ea : Int} {m : Word48} (h : s.read48 ea = .ok m) :
    ∃ w : Nat, ea = 3 * (w : Int) ∧ m = word48At s (3 * w) := by
  obtain ⟨a, ha, rfl⟩ := read48_eq_ok.1 h
  obtain ⟨hea, h3, -⟩ := access_eq_ok.1 ha
  obtain ⟨w, rfl⟩ : ∃ w, a = 3 * w := ⟨a / 3, by omega⟩
  exact ⟨w, by omega, (word48At_eq s (3 * w)).symm⟩

/-- An execute that puts `v` into register `g` and reports its sign leaves in SW the sign of `g` (R30, R32). -/
theorem sign_of_setReg_sw {s : State} {g : GReg} {v : Word} {r : Report} (hcc : r.newCC = some (ccSign v)) :
    EndsIn (fun u => u.sw = swWithCC s.sw (some (signCC (u.reg g).toInt))) (.next ((s.setReg g v).finish r)) :=
  .next (by rw [finish_sw_eq_swWithCC, hcc, setReg_sw, reg_finish, reg_setReg_same, ccSign_eq_signCC])

/-- A register operation leaves in SW the sign of the register r2 names (R32, R140). -/
theorem intoReg_sw {op : Opcode} {s : State} {r1 r2 : Int} {g : GReg × GReg} {v : Word}
    (hg : ordinalRegs r1 r2 = .ok g) :
    EndsIn (fun u => ∃ g : GReg, r2 = g.ordinal ∧ u.sw = swWithCC s.sw (some (signCC (u.reg g).toInt)))
      (intoReg op r1 r2 g.2 v s) :=
  fun u hu => ⟨g.2, (ordinalRegs_eq_ok.1 hg).2, sign_of_setReg_sw rfl u hu⟩

/-- A shift leaves in SW the sign of the register r1 names (R32, R250). -/
theorem intoShifted_sw {op : Opcode} {s : State} {r1 : Int} {n : Nat} {g : GReg} {v : Word}
    (hg : ordinalReg r1 = .ok g) :
    EndsIn (fun u => ∃ g : GReg, r1 = g.ordinal ∧ u.sw = swWithCC s.sw (some (signCC (u.reg g).toInt)))
      (intoShifted op r1 n g v s) :=
  fun u hu => ⟨g, ordinalReg_eq_ok.1 hg, sign_of_setReg_sw rfl u hu⟩

/-- A result into F leaves in SW the sign of F if `FLOAT_ARITH_SETS_CC`, and SW as it was if not (R32, R151). -/
theorem intoF_sw (op : Opcode) (v : Word48) (s : State) :
    EndsIn (fun u => u.sw = swWithCC s.sw (if s.config.floatArithSetsCC then some (signCC u.regF.toInt) else none))
      (intoF op v s) :=
  .next (by rw [finish_sw_eq_swWithCC, setF_sw, finish_regF, setF_regF, ccSign_eq_signCC])

/-- An execute that reports a comparison leaves it in SW (R31, R32). -/
theorem comparison_sw {w : Nat} {s s' : State} {r : Report} {mode : CmpMode} {a b : BitVec w}
    (hcc : r.newCC = some (ccCmp mode a b)) (hsw : s'.sw = s.sw) :
    (s'.finish r).sw = swWithCC s.sw (some (compareCC mode a b)) := by
  rw [finish_sw_eq_swWithCC, hcc, hsw, ccCmp_eq_compareCC]

/-- Settles O24: each group of instructions by the law of what it reports, the others by their footprint. -/
theorem conditionCodeWriters : Obligations.ConditionCodeWriters := by
  unfold Obligations.ConditionCodeWriters
  intro i s
  change EndsIn _ (exec i s)
  cases i with
  | add t => exact .orFault fun _ _ => sign_of_setReg_sw (g := .a) rfl
  | sub t => exact .orFault fun _ _ => sign_of_setReg_sw (g := .a) rfl
  | mul t => exact .orFault fun _ _ => sign_of_setReg_sw (g := .a) rfl
  | div t => exact .orFault fun _ _ => .orFault fun _ _ => sign_of_setReg_sw (g := .a) rfl
  | and t => exact .orFault fun _ _ => sign_of_setReg_sw (g := .a) rfl
  | or t => exact .orFault fun _ _ => sign_of_setReg_sw (g := .a) rfl
  | addr r1 r2 => exact .orFault fun _ hg => intoReg_sw hg
  | subr r1 r2 => exact .orFault fun _ hg => intoReg_sw hg
  | mulr r1 r2 => exact .orFault fun _ hg => intoReg_sw hg
  | divr r1 r2 => exact .orFault fun _ hg => .orFault fun _ _ => intoReg_sw hg
  | shiftl r1 n => exact .orFault fun _ hg => intoShifted_sw hg
  | shiftr r1 n => exact .orFault fun _ hg => intoShifted_sw hg
  | comp t =>
    refine .orFault fun m hm => .next ?_
    obtain ⟨w, hea, rfl⟩ := readWord_ok_wordAt hm
    exact ⟨w, hea, comparison_sw rfl rfl⟩
  | tix t =>
    refine .orFault fun m hm => .next ?_
    obtain ⟨w, hea, rfl⟩ := readWord_ok_wordAt hm
    exact ⟨w, hea, comparison_sw rfl rfl⟩
  | compf t =>
    refine .orFault fun m hm => .next ?_
    obtain ⟨w, hea, rfl⟩ := read48_ok_word48At hm
    exact ⟨w, hea, comparison_sw rfl rfl⟩
  | compr r1 r2 =>
    refine .orFault fun g hg => .next ?_
    obtain ⟨h1, h2⟩ := ordinalRegs_eq_ok.1 hg
    exact ⟨g.1, g.2, h1, h2, comparison_sw rfl rfl⟩
  | tixr r1 =>
    refine .orFault fun g hg => .next ⟨g, ordinalReg_eq_ok.1 hg, ?_⟩
    rw [reg_finish]
    exact comparison_sw rfl rfl
  | addf t => exact .orFault fun _ _ => intoF_sw .addf _ s
  | subf t => exact .orFault fun _ _ => intoF_sw .subf _ s
  | mulf t => exact .orFault fun _ _ => intoF_sw .mulf _ s
  | divf t => exact .orFault fun _ _ => .orFault fun _ _ => intoF_sw .divf _ s
  | _ => exact fun u h => (exec_footprint _ s u h).sw.resolve_right Bool.false_ne_true

end Sys2Proof.Machine
end

section
/-! PROOFS. 10_state.md: what an execute does not read. The value of F matters only to the extended family, that of SW
only to the conditional jumps. -/

namespace Sys2Proof.Machine

/-! ### Related answers -/

/-- Two answers of the same kind: next states that `R` relates, or the same fault, or the same refusal. -/
inductive Related (R : State → State → Prop) : Answer → Answer → Prop
  | next {u u' : State} (h : R u u') : Related R (.next u) (.next u')
  | fault (e : Fault) : Related R (.fault e) (.fault e)
  | refused (e : Refusal) : Related R (.refused e) (.refused e)

theorem Related.orFault {α : Type} {R : State → State → Prop} {r : Except EngineFault α} {k k' : α → Answer}
    (h : ∀ v, Related R (k v) (k' v)) : Related R (orFault r k) (orFault r k') := by
  cases r with
  | ok v => exact h v
  | error f => exact .fault _

/-- What is related to a next state is a next state. -/
theorem Related.exists_next {R : State → State → Prop} {u : State} {a' : Answer} (h : Related R (.next u) a') :
    ∃ u', a' = .next u' ∧ R u u' := by
  cases h with
  | next h => exact ⟨_, rfl, h⟩

/-- A checked write is its check, then the write. -/
theorem orFault_map {α β : Type} (f : α → β) (r : Except EngineFault α) (k : β → Answer) :
    orFault (r.map f) k = orFault r fun v => k (f v) := by
  cases r <;> rfl

/-! ### Executes that read neither F nor SW -/

/-- The state with other values in F and SW. -/
def State.withFSw (f : Word48) (sw : Word) (s : State) : State := { s with regF := f, sw := sw }

/-- A relation of states that the same writes, and ending with the same report, keep. -/
structure KeptByWrites (R : State → State → Prop) : Prop where
  setReg : ∀ {s s'} g v, R s s' → R (s.setReg g v) (s'.setReg g v)
  setPc : ∀ {s s'} n, R s s' → R (s.setPc n) (s'.setPc n)
  setMem : ∀ {s s'} m, R s s' → R { s with mem := m } { s' with mem := m }
  finish : ∀ {s s'} r, R s s' → R (s.finish r) (s'.finish r)

/-- The extended family: the instructions that read or write F (R26, R38). -/
def usesF (op : Opcode) : Bool :=
  decide (op ∈ [Opcode.addf, .subf, .mulf, .divf, .compf, .fix, .stf, .ldf, .float])

/-- The instructions that read CC (R33). -/
def readsCC (op : Opcode) : Bool := decide (op ∈ [Opcode.jeq, .jlt, .jgt])

section
variable {R : State → State → Prop} {s : State} {f : Word48} {sw : Word}

theorem skip_related (hR : KeptByWrites R) (h : R s (s.withFSw f sw)) (op : Opcode) (l : List Int) :
    Related R (skip op l s) (skip op l (s.withFSw f sw)) :=
  .next (hR.finish _ h)

theorem accumulate_related (hR : KeptByWrites R) (h : R s (s.withFSw f sw)) (op : Opcode) (v : Word) :
    Related R (accumulate op v s) (accumulate op v (s.withFSw f sw)) :=
  .next (hR.finish _ (hR.setReg _ _ h))

theorem intoReg_related (hR : KeptByWrites R) (h : R s (s.withFSw f sw)) (op : Opcode) (r1 r2 : Int) (g : GReg)
    (v : Word) : Related R (intoReg op r1 r2 g v s) (intoReg op r1 r2 g v (s.withFSw f sw)) :=
  .next (hR.finish _ (hR.setReg _ _ h))

theorem intoShifted_related (hR : KeptByWrites R) (h : R s (s.withFSw f sw)) (op : Opcode) (r1 : Int) (n : Nat)
    (g : GReg) (v : Word) : Related R (intoShifted op r1 n g v s) (intoShifted op r1 n g v (s.withFSw f sw)) :=
  .next (hR.finish _ (hR.setReg _ _ h))

theorem loadWord_related (hR : KeptByWrites R) (h : R s (s.withFSw f sw)) (op : Opcode) (g : GReg) (t : Target) :
    Related R (loadWord op g t s) (loadWord op g t (s.withFSw f sw)) :=
  .orFault fun _ => .next (hR.finish _ (hR.setReg _ _ h))

theorem storeWord_related (hR : KeptByWrites R) (h : R s (s.withFSw f sw)) (op : Opcode) (g : GReg) (t : Target) :
    Related R (storeWord op g t s) (storeWord op g t (s.withFSw f sw)) := by
  unfold storeWord State.writeWord
  rw [orFault_map, orFault_map]
  exact .orFault fun _ => .next (hR.finish _ (hR.setMem _ h))

theorem jumpIf_related (hR : KeptByWrites R) (h : R s (s.withFSw f sw))
    (hcc : (s.withFSw f sw).ccBits = s.ccBits) (op : Opcode) (c : CC) (t : Target) :
    Related R (jumpIf op c t s) (jumpIf op c t (s.withFSw f sw)) := by
  unfold jumpIf
  rw [hcc]
  split_ifs
  · exact .next (hR.finish _ (hR.setPc _ h))
  · exact .next (hR.finish _ h)

theorem execRsub_related (hR : KeptByWrites R) (h : R s (s.withFSw f sw)) (fm : Form) :
    Related R (execRsub fm s) (execRsub fm (s.withFSw f sw)) := by
  unfold execRsub
  split_ifs
  · exact .next (hR.finish _ (hR.setPc _ h))
  · contradiction
  · contradiction
  · exact .next (hR.finish _ (hR.setPc _ h))

theorem execStch_related (hR : KeptByWrites R) (h : R s (s.withFSw f sw)) (t : Target) :
    Related R (execStch t s) (execStch t (s.withFSw f sw)) := by
  unfold execStch State.writeByte
  rw [orFault_map, orFault_map]
  exact .orFault fun _ => .next (hR.finish _ (hR.setMem _ h))

theorem execStf_related (hR : KeptByWrites R) (h : R s (s.withFSw s.regF sw)) (t : Target) :
    Related R (execStf t s) (execStf t (s.withFSw s.regF sw)) := by
  unfold execStf State.write48
  rw [orFault_map, orFault_map]
  exact .orFault fun _ => .next (hR.finish _ (hR.setMem _ h))

theorem intoF_related (hR : KeptByWrites R) (h : ∀ v, R (s.setF v) ((s.withFSw f sw).setF v)) (op : Opcode)
    (v : Word48) : Related R (intoF op v s) (intoF op v (s.withFSw f sw)) :=
  .next (hR.finish _ (h v))

/-- Executes of one instruction in two states that differ in F and SW alone: where the instruction reads nothing that
differs, the answers are as alike as the states. -/
theorem exec_related (hR : KeptByWrites R) (i : Instr) (h : R s (s.withFSw f sw))
    (hF : usesF i.opcode = true → f = s.regF ∧ ∀ v, R (s.setF v) ((s.withFSw f sw).setF v))
    (hcc : readsCC i.opcode = true → (s.withFSw f sw).ccBits = s.ccBits) :
    Related R (exec i s) (exec i (s.withFSw f sw)) := by
  cases i with
  | add t => exact .orFault fun _ => accumulate_related hR h _ _
  | sub t => exact .orFault fun _ => accumulate_related hR h _ _
  | mul t => exact .orFault fun _ => accumulate_related hR h _ _
  | div t => exact .orFault fun _ => .orFault fun _ => accumulate_related hR h _ _
  | and t => exact .orFault fun _ => accumulate_related hR h _ _
  | or t => exact .orFault fun _ => accumulate_related hR h _ _
  | addr r1 r2 => exact .orFault fun _ => intoReg_related hR h _ _ _ _ _
  | subr r1 r2 => exact .orFault fun _ => intoReg_related hR h _ _ _ _ _
  | mulr r1 r2 => exact .orFault fun _ => intoReg_related hR h _ _ _ _ _
  | divr r1 r2 => exact .orFault fun _ => .orFault fun _ => intoReg_related hR h _ _ _ _ _
  | addf t =>
    obtain ⟨rfl, hset⟩ := hF rfl
    exact .orFault fun _ => intoF_related hR hset _ _
  | subf t =>
    obtain ⟨rfl, hset⟩ := hF rfl
    exact .orFault fun _ => intoF_related hR hset _ _
  | mulf t =>
    obtain ⟨rfl, hset⟩ := hF rfl
    exact .orFault fun _ => intoF_related hR hset _ _
  | divf t =>
    obtain ⟨rfl, hset⟩ := hF rfl
    exact .orFault fun _ => .orFault fun _ => intoF_related hR hset _ _
  | compf t =>
    obtain ⟨rfl, -⟩ := hF rfl
    exact .orFault fun _ => .next (hR.finish _ h)
  | fix =>
    obtain ⟨rfl, -⟩ := hF rfl
    exact .next (hR.finish _ (hR.setReg _ _ h))
  | float => exact .next (hR.finish _ ((hF rfl).2 _))
  | norm => exact skip_related hR h _ _
  | sio => exact skip_related hR h _ _
  | ssk f => exact skip_related hR h _ _
  | rd f => exact skip_related hR h _ _
  | tio => exact skip_related hR h _ _
  | td f => exact skip_related hR h _ _
  | svc n => exact skip_related hR h _ _
  | wd f => exact skip_related hR h _ _
  | lps f => exact skip_related hR h _ _
  | sti f => exact skip_related hR h _ _
  | j t => exact .next (hR.finish _ (hR.setPc _ h))
  | jeq t => exact jumpIf_related hR h (hcc rfl) _ _ _
  | jlt t => exact jumpIf_related hR h (hcc rfl) _ _ _
  | jgt t => exact jumpIf_related hR h (hcc rfl) _ _ _
  | jsub t => exact .next (hR.finish _ (hR.setPc _ (hR.setReg _ _ h)))
  | rsub f => exact execRsub_related hR h f
  | lda t => exact loadWord_related hR h _ _ _
  | ldb t => exact loadWord_related hR h _ _ _
  | ldl t => exact loadWord_related hR h _ _ _
  | lds t => exact loadWord_related hR h _ _ _
  | ldt t => exact loadWord_related hR h _ _ _
  | ldx t => exact loadWord_related hR h _ _ _
  | sta t => exact storeWord_related hR h _ _ _
  | stb t => exact storeWord_related hR h _ _ _
  | stl t => exact storeWord_related hR h _ _ _
  | sts t => exact storeWord_related hR h _ _ _
  | stt t => exact storeWord_related hR h _ _ _
  | stx t => exact storeWord_related hR h _ _ _
  | ldch t => exact .orFault fun _ => .next (hR.finish _ (hR.setReg _ _ h))
  | stch t => exact execStch_related hR h t
  | ldf t => exact .orFault fun v => .next (hR.finish _ ((hF rfl).2 v))
  | stf t =>
    obtain ⟨rfl, -⟩ := hF rfl
    exact execStf_related hR h t
  | clear r1 => exact .orFault fun _ => .next (hR.finish _ (hR.setReg _ _ h))
  | comp t => exact .orFault fun _ => .next (hR.finish _ h)
  | compr r1 r2 => exact .orFault fun _ => .next (hR.finish _ h)
  | shiftl r1 n => exact .orFault fun _ => intoShifted_related hR h _ _ _ _ _
  | shiftr r1 n => exact .orFault fun _ => intoShifted_related hR h _ _ _ _ _
  | rmo r1 r2 => exact .orFault fun _ => .next (hR.finish _ (hR.setReg _ _ h))
  | tix t => exact .orFault fun _ => .next (hR.finish _ (hR.setReg _ _ h))
  | tixr r1 => exact .orFault fun _ => .next (hR.finish _ (hR.setReg _ _ h))

end

/-! ### The value of F (R26, R38) -/

/-- `u'` is `u` but for F, which is `v`. -/
def SameWithF (v : Word48) (u u' : State) : Prop := u' = u.setF v

theorem sameWithF_kept (v : Word48) : KeptByWrites (SameWithF v) where
  setReg g x h := by subst h; cases g <;> rfl
  setPc n h := by subst h; rfl
  setMem m h := by subst h; rfl
  finish r h := by
    subst h
    unfold State.finish
    cases r.newCC <;> rfl

/-- Next states that differ by F alone are the image of one answer under the change of F. -/
theorem Related.eq_mapNext_setF {v : Word48} {a a' : Answer} (h : Related (SameWithF v) a a') :
    a' = mapNext (State.setF v) a := by
  cases h with
  | next h => exact congrArg Host.Outcome.next h
  | fault e => rfl
  | refused e => rfl

/-- LDF and FLOAT overwrite F and read it nowhere (R158, R226). -/
theorem exec_setF_of_overwritten {i : Instr} (h : i.opcode ∈ [Opcode.ldf, .float]) (s : State) (v : Word48) :
    exec i (s.setF v) = exec i s := by
  cases i with
  | ldf t => rfl
  | float => rfl
  | _ => simp [Instr.opcode] at h

/-- Settles O28: outside the family the two executes are related, and SW and the operands are the same in both. -/
theorem fIsReadOnlyByItsFamily : Obligations.FIsReadOnlyByItsFamily := by
  unfold Obligations.FIsReadOnlyByItsFamily
  intro i s v
  refine ⟨fun hF => ?_, fun h => exec_setF_of_overwritten h s v⟩
  have hrel : Related (SameWithF v) (exec i s) (exec i (s.withFSw v s.sw)) :=
    exec_related (sameWithF_kept v) i rfl (fun huses => absurd (of_decide_eq_true huses) hF) fun _ => rfl
  exact hrel.eq_mapNext_setF

/-! ### The value of SW (R28, R33, R38) -/

/-- `u'` is `u` but for SW. -/
def SameButSw (u u' : State) : Prop := u' = { u with sw := u'.sw }

theorem SameButSw.intro (u : State) (w : Word) : SameButSw u { u with sw := w } := rfl

theorem sameButSw_kept : KeptByWrites SameButSw where
  setReg g x h := by rw [h]; cases g <;> exact .intro _ _
  setPc n h := by rw [h]; exact .intro _ _
  setMem m h := by rw [h]; exact .intro _ _
  finish r h := by
    rw [h]
    unfold State.finish
    cases r.newCC <;> exact .intro _ _

/-- Settles O29: the two executes are related, and F is the same in both. -/
theorem conditionCodeIsReadOnlyByJumps : Obligations.ConditionCodeIsReadOnlyByJumps := by
  unfold Obligations.ConditionCodeIsReadOnlyByJumps
  intro i s u v hjump hu
  have hrel : Related SameButSw (exec i s) (exec i (s.withFSw s.regF v)) :=
    exec_related sameButSw_kept i (.intro s v) (fun _ => ⟨rfl, fun x => .intro (s.setF x) v⟩)
      fun hreads => absurd (of_decide_eq_true hreads) hjump
  rw [hu] at hrel
  exact hrel.exists_next

end Sys2Proof.Machine
end

section
/-! PROOFS. 20_memory.md: what a store does where its access is checked, and what it leaves unchanged. -/

namespace Sys2Proof.Machine

/-! ### Reading registers by name (R22) after memory is written and an execute ends -/

/-- Ending an execute that reports no condition code leaves every register as it was (R28, R32). -/
theorem readNamed_finish {r : Report} (hcc : r.newCC = none) (s : State) (name : RegName) :
    (s.finish r).readNamed name = s.readNamed name := by
  cases name <;> simp [State.readNamed, hcc]

/-- Writing memory writes no register (R59). -/
theorem readNamed_setMem (s : State) (m : Memory) (name : RegName) :
    { s with mem := m }.readNamed name = s.readNamed name := by
  cases name <;> rfl

/-! ### The stores at a checked address (R217, R225, R227) -/

section
variable {s : State} {t : Target} {a : Nat}

theorem storeWord_of_access (op : Opcode) (g : GReg) (ha : s.access 0 (targetEa t s) = .ok a) :
    storeWord op g t s = .next ({ s with mem := s.mem.setWord a (s.reg g) }.finish { opcode := op }) := by
  rw [storeWord, writeWord_eq_ok.2 ⟨a, ha, rfl⟩, orFault_ok]

theorem execStch_of_access (ha : s.access 0 (targetEa t s) = .ok a) :
    execStch t s =
      .next ({ s with mem := s.mem.write (a + s.config.chLane.val) (s.regA.extractLsb' 0 8) }.finish
        { opcode := .stch }) := by
  rw [execStch, writeByte_eq_ok.2 ⟨a, ha, rfl⟩, orFault_ok]

theorem execStf_of_access (ha : s.access 1 (targetEa t s) = .ok a) :
    execStf t s = .next ({ s with mem := s.mem.setWord48 a s.regF }.finish { opcode := .stf }) := by
  rw [execStf, write48_eq_ok.2 ⟨a, ha, rfl⟩, orFault_ok]

end

/-! ### The frame of a store (R59) -/

/-- Every byte but the `n` from `a` on reads as before, and so does every register, PC, SW and F. -/
def ChangesOnlyBytes (a n : Nat) (s u : State) : Prop :=
  sameMemBut a n s u ∧ ∀ r : RegName, u.readNamed r = s.readNamed r

/-- An execute that writes those bytes and reports no condition code keeps the frame. -/
theorem changesOnlyBytes_finish {a n : Nat} {s : State} {m : Memory} {r : Report}
    (hm : ∀ b, b < a ∨ a + n ≤ b → m.read b = s.mem.read b) (hcc : r.newCC = none) :
    ChangesOnlyBytes a n s ({ s with mem := m }.finish r) := by
  constructor
  · intro b hb
    rw [finish_mem]
    exact hm b hb
  · intro name
    rw [readNamed_finish hcc, readNamed_setMem]

section
variable {s : State} {t : Target} {a : Nat}

theorem storeWord_frame (op : Opcode) (g : GReg) (ha : s.access 0 (targetEa t s) = .ok a) :
    EndsIn (ChangesOnlyBytes a 3 s) (storeWord op g t s) := by
  rw [storeWord_of_access op g ha]
  exact .next (changesOnlyBytes_finish (fun _ hb => Memory.read_setWord_other _ _ hb) rfl)

theorem execStch_frame (ha : s.access 0 (targetEa t s) = .ok a) :
    EndsIn (ChangesOnlyBytes (a + s.config.chLane.val) 1 s) (execStch t s) := by
  rw [execStch_of_access ha]
  exact .next (changesOnlyBytes_finish (fun _ hb => Memory.read_write_other _ _ (by omega)) rfl)

theorem execStf_frame (ha : s.access 1 (targetEa t s) = .ok a) :
    EndsIn (ChangesOnlyBytes a 6 s) (execStf t s) := by
  rw [execStf_of_access ha]
  exact .next (changesOnlyBytes_finish (fun _ hb => Memory.read_setWord48_other _ _ hb) rfl)

end

/-- Settles O27: the six word stores by the one frame of `storeWord`, STCH and STF by their own. -/
theorem storesChangeOnlyTheirBytes : Obligations.StoresChangeOnlyTheirBytes := by
  unfold Obligations.StoresChangeOnlyTheirBytes
  intro t s u a
  refine ⟨?_, fun hu ha => execStch_frame ha u hu, fun hu ha => execStf_frame ha u hu⟩
  have word (op : Opcode) (g : GReg) (hu : storeWord op g t s = .next u) (ha : s.access 0 (targetEa t s) = .ok a) :
      ChangesOnlyBytes a 3 s u := storeWord_frame op g ha u hu
  simp only [List.forall_mem_cons, List.not_mem_nil, false_implies, implies_true, and_true]
  exact ⟨word .sta .a, word .stb .b, word .stl .l, word .sts .s, word .stt .t, word .stx .x⟩

end Sys2Proof.Machine
end

section
/-! PROOFS. 30_encoding.md: the opcode map, and the encoder's and the decoder's bytes, bit by bit. -/

namespace Sys2Proof

/-! ### The opcode map (R84, R89) -/

theorem selects_iff {b : Byte} {op : Opcode} : selects b op = true ↔ b &&& (builder op).mask = opcodeByte op :=
  beq_iff_eq

theorem Builder.mask_cases (sh : Builder) : sh.mask = BitVec.allOnes 8 ∨ sh.mask = 0xFC := by
  cases sh <;> simp [Builder.mask]

/-- The places of n and i are 0 in an opcode byte (R89). -/
theorem opcodeByte_and_mask (op : Opcode) : opcodeByte op &&& 0xFC = opcodeByte op := by
  cases op <;> rfl

/-- In every format the high six bits are those of the opcode byte (R89). -/
theorem highBits_of_selects {b : Byte} {op : Opcode} (h : selects b op = true) : b &&& 0xFC = opcodeByte op := by
  have hmask := selects_iff.1 h
  rcases (builder op).mask_cases with hall | hhigh
  · rw [hall, BitVec.and_allOnes] at hmask
    rw [hmask, opcodeByte_and_mask]
  · rwa [hhigh] at hmask

theorem opcodeByte_injective : Function.Injective opcodeByte := fun op op' h => by
  have hsel := selectOpcode_opcodeByte op
  rwa [h, selectOpcode_opcodeByte, Option.some.injEq, eq_comm] at hsel

theorem mem_allOpcodes (op : Opcode) : op ∈ allOpcodes :=
  List.mem_of_find?_eq_some (selectOpcode_opcodeByte op)

/-- The search finds every selected opcode, as no byte selects two (R89). -/
theorem selectOpcode_eq_some {b : Byte} {op : Opcode} : selectOpcode b = some op ↔ selects b op = true := by
  refine ⟨fun h => List.find?_some h, fun h => ?_⟩
  cases hsel : selectOpcode b with
  | none => exact absurd h (List.find?_eq_none.1 hsel op (mem_allOpcodes op))
  | some op' =>
    have h' : selects b op' = true := List.find?_some hsel
    rw [opcodeByte_injective ((highBits_of_selects h').symm.trans (highBits_of_selects h))]

/-- Settles O3, from the uniqueness of the selected opcode. -/
theorem firstByteSelectsOneOpcode : Obligations.FirstByteSelectsOneOpcode := by
  unfold Obligations.FirstByteSelectsOneOpcode
  refine ⟨fun b op => selectOpcode_eq_some.trans selects_iff, fun op => ?_⟩
  cases op <;> rfl

/-! ### Shapes and their operands (R82) -/

/-- `Builds sh f i`: the shape `sh` makes instruction `i` of the operands `f`. -/
inductive Builds : Builder → Fields → Instr → Prop
  | none (i : Instr) : Builds (.none i) .none i
  | mem (mk : Target → Instr) (t : Target) : Builds (.mem mk) (.mem t) (mk t)
  | loose (mk : Form → Instr) (f : Form) : Builds (.loose mk) (.loose f) (mk f)
  | regReg (mk : Int → Int → Instr) (r1 r2 : Int) : Builds (.regReg mk) (.regReg r1 r2) (mk r1 r2)
  | reg (mk : Int → Instr) (r1 : Int) : Builds (.reg mk) (.reg r1) (mk r1)
  | regCount (mk : Int → Nat → Instr) (r1 : Int) (n : Nat) : Builds (.regCount mk) (.regCount r1 n) (mk r1 n)
  | number (mk : Int → Instr) (n : Int) : Builds (.number mk) (.number n) (mk n)

/-- Every instruction is made of its operands by the shape of its opcode. -/
theorem builds_builder (i : Instr) : Builds (builder i.opcode) i.fields i := by
  cases i <;> constructor

/-- What the shape of an opcode makes has that opcode and those operands. -/
theorem Builds.opcode_fields {op : Opcode} {f : Fields} {i : Instr} (h : Builds (builder op) f i) :
    i.opcode = op ∧ i.fields = f := by
  cases op <;> cases h <;> exact ⟨rfl, rfl⟩

theorem Builds.encode_eq {op : Opcode} {f : Fields} {i : Instr} (h : Builds (builder op) f i) :
    encode i = encodeFields (opcodeByte op) f := by
  obtain ⟨hop, hf⟩ := h.opcode_fields
  rw [encode, hop, hf]

/-! ### The bits of a byte -/

theorem byte_ext_iff {a b : Byte} : a = b ↔
    a.getLsbD 0 = b.getLsbD 0 ∧ a.getLsbD 1 = b.getLsbD 1 ∧ a.getLsbD 2 = b.getLsbD 2 ∧ a.getLsbD 3 = b.getLsbD 3 ∧
    a.getLsbD 4 = b.getLsbD 4 ∧ a.getLsbD 5 = b.getLsbD 5 ∧ a.getLsbD 6 = b.getLsbD 6 ∧ a.getLsbD 7 = b.getLsbD 7 := by
  simp only [BitVec.eq_of_getLsbD_eq_iff, Nat.forall_lt_succ_right, Nat.not_lt_zero, false_implies, implies_true,
    true_and, and_assoc]

/-- The bits i and n of a first byte (R88). -/
theorem and_three_eq_zero {b : Byte} : b &&& 3 = 0 ↔ b.getLsbD 0 = false ∧ b.getLsbD 1 = false := by
  simp [byte_ext_iff, -BitVec.getLsbD_eq_getElem]

theorem and_three_eq_three {b : Byte} : b &&& 3 = 3 ↔ b.getLsbD 0 = true ∧ b.getLsbD 1 = true := by
  simp [byte_ext_iff, -BitVec.getLsbD_eq_getElem]

/-- The bit e of a second byte (R88). -/
theorem and_e_eq_zero {b : Byte} : b &&& 0x10 = 0 ↔ b.getLsbD 4 = false := by
  simp [byte_ext_iff, -BitVec.getLsbD_eq_getElem]

/-- The bits p and b of a second byte (R88). -/
theorem and_bp_eq_zero {b : Byte} : b &&& 0x60 = 0 ↔ b.getLsbD 5 = false ∧ b.getLsbD 6 = false := by
  simp [byte_ext_iff, -BitVec.getLsbD_eq_getElem]

theorem and_bp_eq_both {b : Byte} : b &&& 0x60 = 0x60 ↔ b.getLsbD 5 = true ∧ b.getLsbD 6 = true := by
  simp [byte_ext_iff, -BitVec.getLsbD_eq_getElem]

/-- The second byte of format 3/4, bit by bit (R88). -/
theorem flagByte_getLsbD (x b p e : Bool) (hi : BitVec 4) (k : Nat) :
    (flagByte x b p e hi).getLsbD k = if k < 4 then hi.getLsbD k else [e, p, b, x].getD (k - 4) false := by
  rw [flagByte, BitVec.getLsbD_append, BitVec.getLsbD_append, BitVec.getLsbD_append, BitVec.getLsbD_append]
  rcases k with _ | _ | _ | _ | _ | _ | _ | _ | k <;> simp

theorem flagByte_x (x b p e : Bool) (hi : BitVec 4) : (flagByte x b p e hi).getLsbD 7 = x := by
  rw [flagByte_getLsbD]; rfl

theorem flagByte_b (x b p e : Bool) (hi : BitVec 4) : (flagByte x b p e hi).getLsbD 6 = b := by
  rw [flagByte_getLsbD]; rfl

theorem flagByte_p (x b p e : Bool) (hi : BitVec 4) : (flagByte x b p e hi).getLsbD 5 = p := by
  rw [flagByte_getLsbD]; rfl

theorem flagByte_e (x b p e : Bool) (hi : BitVec 4) : (flagByte x b p e hi).getLsbD 4 = e := by
  rw [flagByte_getLsbD]; rfl

/-- The top four address bits are the low nibble of the second byte (R88). -/
theorem flagByte_hi (x b p e : Bool) (hi : BitVec 4) : (flagByte x b p e hi).extractLsb' 0 4 = hi := by
  refine BitVec.eq_of_getLsbD_eq fun k hk => ?_
  rw [BitVec.getLsbD_extractLsb', flagByte_getLsbD, zero_add, if_pos hk, decide_eq_true hk, Bool.true_and]

/-- A byte is made of its flag bits and its low nibble. -/
theorem flagByte_of_bits (b : Byte) :
    flagByte (b.getLsbD 7) (b.getLsbD 6) (b.getLsbD 5) (b.getLsbD 4) (b.extractLsb' 0 4) = b := by
  simp [byte_ext_iff, flagByte_getLsbD, BitVec.getLsbD_extractLsb', -BitVec.getLsbD_eq_getElem]

end Sys2Proof
end

section
/-! PROOFS. 30_encoding.md: what the decoder reads is what the encoder writes. -/

namespace Sys2Proof

/-! ### The address field (R88, R92, R93) -/

theorem disp_split (d : BitVec 12) : d.extractLsb' 8 4 ++ d.extractLsb' 0 8 = d := by
  rw [BitVec.extractLsb'_append_extractLsb'_eq_extractLsb' (by rfl)]
  exact BitVec.extractLsb'_eq_self

theorem addr_split (a : BitVec 20) : a.extractLsb' 16 4 ++ a.extractLsb' 8 8 ++ a.extractLsb' 0 8 = a := by
  rw [BitVec.extractLsb'_append_extractLsb'_eq_extractLsb' (by rfl),
    BitVec.extractLsb'_append_extractLsb'_eq_extractLsb' (by rfl)]
  exact BitVec.extractLsb'_eq_self

theorem sic_split (a : BitVec 15) : a.extractLsb' 8 7 ++ a.extractLsb' 0 8 = a := by
  rw [BitVec.extractLsb'_append_extractLsb'_eq_extractLsb' (by rfl)]
  exact BitVec.extractLsb'_eq_self

/-! ### The three ways a format-3/4 instruction decodes (R90, R92, R93, R96) -/

section
variable {b0 b1 b2 b3 : Byte} {bs : List Byte}

/-- n = i = 0 is the SIC form (R96). -/
theorem sicBits_eq (b : Byte) : (!b.getLsbD 1 && !b.getLsbD 0) = decide (b &&& 3 = 0) := by
  rw [Bool.eq_iff_iff, decide_eq_true_iff, and_three_eq_zero, Bool.and_eq_true, Bool.not_eq_true', Bool.not_eq_true',
    and_comm]

theorem decodeForm_sic (h : b0 &&& 3 = 0) :
    decodeForm b0 (b1 :: b2 :: bs) = .ok (.sic (b1.getLsbD 7) (b1.extractLsb' 0 7 ++ b2), 3) := by
  simp only [decodeForm, sicBits_eq, h, decide_true, if_true]

theorem decodeForm_format3 (h : b0 &&& 3 ≠ 0) (he : b1.getLsbD 4 = false) :
    decodeForm b0 (b1 :: b2 :: bs) =
      (decodeFormat3 (b1.getLsbD 7) (b1.getLsbD 6) (b1.getLsbD 5) (b1.extractLsb' 0 4 ++ b2)).map
        fun t => (wrapForm (b0.getLsbD 1) (b0.getLsbD 0) t, 3) := by
  simp only [decodeForm, sicBits_eq, h, he, decide_false, if_false, Bool.false_eq_true]

theorem decodeForm_format4 (h : b0 &&& 3 ≠ 0) (he : b1.getLsbD 4 = true) :
    decodeForm b0 (b1 :: b2 :: b3 :: bs) =
      (decodeFormat4 (b1.getLsbD 7) (b1.getLsbD 6) (b1.getLsbD 5) (b1.extractLsb' 0 4 ++ b2 ++ b3)).map
        fun t => (wrapForm (b0.getLsbD 1) (b0.getLsbD 0) t, 4) := by
  simp only [decodeForm, sicBits_eq, h, he, decide_false, if_false, if_true, Bool.false_eq_true]

/-- The flags and the displacement of format 3 are read as they are written (R88, R92). -/
theorem decodeForm_encodedFormat3 (h : b0 &&& 3 ≠ 0) (x b p : Bool) (d : BitVec 12) :
    decodeForm b0 (flagByte x b p false (d.extractLsb' 8 4) :: d.extractLsb' 0 8 :: bs) =
      (decodeFormat3 x b p d).map fun t => (wrapForm (b0.getLsbD 1) (b0.getLsbD 0) t, 3) := by
  rw [decodeForm_format3 h (flagByte_e ..), flagByte_x, flagByte_b, flagByte_p, flagByte_hi, disp_split]

/-- The flags and the address of format 4 are read as they are written (R88, R93). -/
theorem decodeForm_encodedFormat4 (h : b0 &&& 3 ≠ 0) (x b p : Bool) (a : BitVec 20) :
    decodeForm b0 (flagByte x b p true (a.extractLsb' 16 4) :: a.extractLsb' 8 8 :: a.extractLsb' 0 8 :: bs) =
      (decodeFormat4 x b p a).map fun t => (wrapForm (b0.getLsbD 1) (b0.getLsbD 0) t, 4) := by
  rw [decodeForm_format4 h (flagByte_e ..), flagByte_x, flagByte_b, flagByte_p, flagByte_hi, addr_split]

end

/-! ### The first byte with n and i (R88, R97) -/

theorem opcodeByte_lowBits (op : Opcode) : opcodeByte op &&& 3 = 0 := by
  rw [← opcodeByte_and_mask op, BitVec.and_assoc]
  exact BitVec.and_zero

/-- The bits n and i written into an opcode byte are read back (R88). -/
theorem opcodeByte_or_lowBits (op : Opcode) {ni : Byte} (h : ni &&& 3 = ni) : (opcodeByte op ||| ni) &&& 3 = ni := by
  rw [BitVec.and_or_distrib_right, opcodeByte_lowBits, h]
  exact BitVec.zero_or

theorem getLsbD_of_lowBits {b ni : Byte} (h : b &&& 3 = ni) :
    b.getLsbD 1 = ni.getLsbD 1 ∧ b.getLsbD 0 = ni.getLsbD 0 := by
  rw [← h]
  simp [-BitVec.getLsbD_eq_getElem]

/-- An encoded target, after a first byte that is not of the SIC form, decodes to itself in the form that byte says
(R88, R92, R93). -/
theorem decodeForm_encodeTarget {b0 ni : Byte} (hni : b0 &&& 3 = ni) (h0 : ni ≠ 0) {t : Target}
    (ht : t.wellFormed = true) (rest : List Byte) :
    ∃ tail, encodeTarget b0 t = b0 :: tail ∧
      decodeForm b0 (tail ++ rest) = .ok (wrapForm (ni.getLsbD 1) (ni.getLsbD 0) t, (encodeTarget b0 t).length) := by
  obtain ⟨hn, hi⟩ := getLsbD_of_lowBits hni
  rw [← hn, ← hi]
  rw [← hni] at h0
  cases t with
  | resolved ea x => cases ht
  | direct x d => exact ⟨_, rfl, decodeForm_encodedFormat3 h0 ..⟩
  | pcRelative x d => exact ⟨_, rfl, decodeForm_encodedFormat3 h0 ..⟩
  | baseRelative x d => exact ⟨_, rfl, decodeForm_encodedFormat3 h0 ..⟩
  | extended x a => exact ⟨_, rfl, decodeForm_encodedFormat4 h0 ..⟩

/-- The second byte of the SIC form: x and the top seven address bits (R96). -/
theorem sicByte_x (x : Bool) (hi : BitVec 7) : (BitVec.ofBool x ++ hi : Byte).getLsbD 7 = x := by
  rw [BitVec.getLsbD_append]
  cases x <;> rfl

/-- An encoded loose form decodes to itself (R96, R97). -/
theorem decodeForm_encodeForm (op : Opcode) {f : Form} (hf : f.wellFormed = true) (rest : List Byte) :
    ∃ b0 tail, encodeForm (opcodeByte op) f = b0 :: tail ∧
      decodeForm b0 (tail ++ rest) = .ok (f, (encodeForm (opcodeByte op) f).length) := by
  cases f with
  | simple t => exact ⟨_, decodeForm_encodeTarget (opcodeByte_or_lowBits op (ni := 3) rfl) (by decide) hf rest⟩
  | immediate t => exact ⟨_, decodeForm_encodeTarget (opcodeByte_or_lowBits op (ni := 1) rfl) (by decide) hf rest⟩
  | indirect t => exact ⟨_, decodeForm_encodeTarget (opcodeByte_or_lowBits op (ni := 2) rfl) (by decide) hf rest⟩
  | sic x a =>
    refine ⟨_, _, rfl, (decodeForm_sic (opcodeByte_lowBits op)).trans ?_⟩
    rw [sicByte_x, BitVec.extractLsb'_append_eq_right, sic_split]
    rfl

/-! ### Nibbles (R88, R91) -/

theorem toNat_ofInt_nibble {r : Int} (h : nibbleOk r = true) : ((BitVec.ofInt 4 r).toNat : Int) = r := by
  obtain ⟨h0, h16⟩ : 0 ≤ r ∧ r < 16 := by simpa [nibbleOk] using h
  rw [BitVec.toNat_ofInt]
  omega

/-- Operands written as nibbles are read back (R88, R91). -/
theorem decodeNibbles_nibbleByte (mk : Int → Int → Instr) {r1 r2 : Int} (h1 : nibbleOk r1 = true)
    (h2 : nibbleOk r2 = true) (rest : List Byte) :
    decodeNibbles mk (nibbleByte r1 r2 :: rest) = .ok (mk r1 r2, 2) := by
  rw [decodeNibbles, nibbleByte, BitVec.extractLsb'_append_eq_left, BitVec.extractLsb'_append_eq_right,
    toNat_ofInt_nibble h1, toNat_ofInt_nibble h2]

/-! ### Decoding after encoding -/

theorem decode_cons {b0 : Byte} {op : Opcode} (h : selectOpcode b0 = some op) (bs : List Byte) :
    decode (b0 :: bs) = decodeOperands b0 bs (builder op) := by
  rw [decode, h]

/-- The operands of every shape are read back, whatever bytes follow (R88 to R97). -/
theorem decode_encodeFields {op : Opcode} {sh : Builder} {f : Fields} {i : Instr} (hsh : builder op = sh)
    (hb : Builds sh f i) (hf : f.wellFormed = true) (rest : List Byte) :
    decode (encodeFields (opcodeByte op) f ++ rest) = .ok (i, (encodeFields (opcodeByte op) f).length) := by
  have hstart (bs : List Byte) : decode (opcodeByte op :: bs) = decodeOperands (opcodeByte op) bs sh :=
    hsh ▸ decode_cons (selectOpcode_opcodeByte op) bs
  have hzero : nibbleOk 0 = true := rfl
  cases hb with
  | none i => exact hstart rest
  | mem mk t =>
    obtain ⟨tail, henc, hdec⟩ := decodeForm_encodeTarget (opcodeByte_or_lowBits op (ni := 3) rfl) (by decide) hf rest
    rw [encodeFields, henc, List.cons_append, decode_cons (selectOpcode_mem op mk hsh), hsh, decodeOperands, hdec, henc]
    rfl
  | loose mk fm =>
    obtain ⟨b0, tail, henc, hdec⟩ := decodeForm_encodeForm op hf rest
    obtain ⟨b, hhead, hsel'⟩ := encodeForm_head hsh hf
    obtain rfl : b0 = b := by simpa [henc] using hhead
    rw [encodeFields, henc, List.cons_append, decode_cons hsel', hsh, decodeOperands, hdec, henc]
    rfl
  | regReg mk r1 r2 =>
    obtain ⟨h1, h2⟩ := Bool.and_eq_true_iff.1 hf
    exact (hstart _).trans (decodeNibbles_nibbleByte mk h1 h2 rest)
  | reg mk r1 =>
    exact (hstart _).trans (decodeNibbles_nibbleByte (fun r1 _ => mk r1) hf hzero rest)
  | regCount mk r1 n =>
    obtain ⟨h1, hn⟩ := Bool.and_eq_true_iff.1 hf
    have h2 : nibbleOk n = true := by simpa [nibbleOk] using hn
    exact (hstart _).trans (decodeNibbles_nibbleByte (fun r1 n => mk r1 n.toNat) h1 h2 rest)
  | number mk n =>
    exact (hstart _).trans (decodeNibbles_nibbleByte (fun n _ => mk n) hf hzero rest)

/-- Settles O1, by the shape of the opcode. -/
theorem decodeOfEncodeIsTheInstruction : Obligations.DecodeOfEncodeIsTheInstruction := by
  unfold Obligations.DecodeOfEncodeIsTheInstruction
  intro i rest h
  exact decode_encodeFields rfl (builds_builder i) h rest

end Sys2Proof
end

section
/-! PROOFS. 30_encoding.md: what bytes decode to encodes to those bytes. -/

namespace Sys2Proof

/-! ### Taking a decoding of format 3/4 apart -/

section
variable {b0 b1 b2 : Byte}

theorem decodeForm_one_byte : decodeForm b0 [b1] = .error .truncated := by
  unfold decodeForm
  dsimp only
  split_ifs <;> rfl

theorem decodeForm_two_bytes (h : b0 &&& 3 ≠ 0) (he : b1.getLsbD 4 = true) :
    decodeForm b0 [b1, b2] = .error .truncated := by
  simp only [decodeForm, sicBits_eq, h, he, decide_false, if_true, Bool.false_eq_true, if_false]

end

/-- A format-3 address form that decodes is one that encodes, with the same flags (R92). -/
theorem decodeFormat3_eq_ok {x b p : Bool} {d : BitVec 12} {t : Target} (h : decodeFormat3 x b p d = .ok t) :
    t.wellFormed = true ∧
      ∀ b0, encodeTarget b0 t = [b0, flagByte x b p false (d.extractLsb' 8 4), d.extractLsb' 0 8] := by
  cases b <;> cases p <;> cases h <;> exact ⟨rfl, fun _ => rfl⟩

/-- The same for format 4 (R93). -/
theorem decodeFormat4_eq_ok {x b p : Bool} {a : BitVec 20} {t : Target} (h : decodeFormat4 x b p a = .ok t) :
    t.wellFormed = true ∧ ∀ b0, encodeTarget b0 t =
      [b0, flagByte x b p true (a.extractLsb' 16 4), a.extractLsb' 8 8, a.extractLsb' 0 8] := by
  cases b <;> cases p <;> cases h
  exact ⟨rfl, fun _ => rfl⟩

theorem except_map_eq_ok {ε α β : Type} {r : Except ε α} {g : α → β} {v : β} (h : r.map g = .ok v) :
    ∃ a, r = .ok a ∧ g a = v := by
  cases r with
  | error e => cases h
  | ok a => exact ⟨a, rfl, Except.ok.inj h⟩

theorem wrapForm_wellFormed (n i : Bool) (t : Target) : (wrapForm n i t).wellFormed = t.wellFormed := by
  cases n <;> cases i <;> rfl

theorem highBits_or_lowBits (b : Byte) : (b &&& 0xFC) ||| (b &&& 3) = b := by
  rw [← BitVec.and_or_distrib_left]
  exact BitVec.and_allOnes

/-- The low bits of a byte are its bits n and i (R88). -/
theorem lowBits_eq (b : Byte) :
    b &&& 3 = if b.getLsbD 1 then if b.getLsbD 0 then 3 else 2 else if b.getLsbD 0 then 1 else 0 := by
  cases hn : b.getLsbD 1 <;> cases hi : b.getLsbD 0 <;>
    simp [byte_ext_iff, hn, hi, -BitVec.getLsbD_eq_getElem]

/-- Wrapping a target by the bits n and i of a first byte, and writing them again (R88, R96). -/
theorem encodeForm_wrapForm {b0 c : Byte} (h : b0 &&& 3 ≠ 0) (hc : b0 &&& 0xFC = c) (t : Target) :
    encodeForm c (wrapForm (b0.getLsbD 1) (b0.getLsbD 0) t) = encodeTarget b0 t := by
  have hb0 := highBits_or_lowBits b0
  rw [lowBits_eq] at h hb0
  rw [hc] at hb0
  cases hn : b0.getLsbD 1 <;> cases hi : b0.getLsbD 0 <;> rw [hn, hi] at h hb0
  · exact absurd rfl h
  all_goals exact congrArg (encodeTarget · t) hb0

/-- The three parts of a format-4 address (R88). -/
theorem addr_parts (hi : BitVec 4) (mid lo : Byte) :
    (hi ++ mid ++ lo).extractLsb' 16 4 = hi ∧ (hi ++ mid ++ lo).extractLsb' 8 8 = mid ∧
      (hi ++ mid ++ lo).extractLsb' 0 8 = lo := by
  refine ⟨?_, ?_, BitVec.extractLsb'_append_eq_right⟩
  · rw [BitVec.extractLsb'_append_eq_of_le (by decide)]
    exact BitVec.extractLsb'_append_eq_left
  · rw [BitVec.extractLsb'_append_eq_of_le (by decide)]
    exact BitVec.extractLsb'_append_eq_right

/-- The second byte of the SIC form is made of x and its low seven bits (R96). -/
theorem sicByte_of_bits (b : Byte) : (BitVec.ofBool (b.getLsbD 7) ++ b.extractLsb' 0 7 : Byte) = b := by
  refine BitVec.eq_of_getLsbD_eq fun k hk => ?_
  rw [BitVec.getLsbD_append, BitVec.getLsbD_extractLsb', zero_add]
  split_ifs with h
  · rw [decide_eq_true h, Bool.true_and]
  · obtain rfl : k = 7 := by omega
    simp

/-- What a format-3/4 decoding read begins with the encoding of the form, of the decoded length (R88, R90, R96). -/
theorem decodeForm_eq_ok {b0 c : Byte} {bs : List Byte} {f : Form} {len : Nat} (hc : b0 &&& 0xFC = c)
    (h : decodeForm b0 bs = .ok (f, len)) :
    f.wellFormed = true ∧ len = (encodeForm c f).length ∧ encodeForm c f <+: b0 :: bs := by
  rcases bs with _ | ⟨b1, _ | ⟨b2, bs⟩⟩
  · cases h
  · rw [decodeForm_one_byte] at h
    cases h
  by_cases hsic : b0 &&& 3 = 0
  · rw [decodeForm_sic hsic] at h
    cases h
    have hb0 : c = b0 := by
      have h := highBits_or_lowBits b0
      rwa [hsic, hc, show c ||| 0 = c from BitVec.or_zero] at h
    refine ⟨rfl, rfl, bs, ?_⟩
    rw [encodeForm, BitVec.extractLsb'_append_eq_left, BitVec.extractLsb'_append_eq_right, sicByte_of_bits, hb0]
    rfl
  cases he : b1.getLsbD 4 with
  | false =>
    rw [decodeForm_format3 hsic he] at h
    obtain ⟨t, ht, h⟩ := except_map_eq_ok h
    cases h
    obtain ⟨hwf, henc⟩ := decodeFormat3_eq_ok ht
    rw [encodeForm_wrapForm hsic hc, henc, wrapForm_wellFormed, BitVec.extractLsb'_append_eq_left,
      BitVec.extractLsb'_append_eq_right]
    have hflags := flagByte_of_bits b1
    rw [he] at hflags
    rw [hflags]
    exact ⟨hwf, rfl, bs, rfl⟩
  | true =>
    rcases bs with _ | ⟨b3, bs⟩
    · rw [decodeForm_two_bytes hsic he] at h
      cases h
    rw [decodeForm_format4 hsic he] at h
    obtain ⟨t, ht, h⟩ := except_map_eq_ok h
    cases h
    obtain ⟨hwf, henc⟩ := decodeFormat4_eq_ok ht
    obtain ⟨hhi, hmid, hlo⟩ := addr_parts (b1.extractLsb' 0 4) b2 b3
    rw [encodeForm_wrapForm hsic hc, henc, wrapForm_wellFormed, hhi, hmid, hlo]
    have hflags := flagByte_of_bits b1
    rw [he] at hflags
    rw [hflags]
    exact ⟨hwf, rfl, bs, rfl⟩

/-! ### Taking a decoding of format 2 apart -/

theorem nibbleOk_toNat (v : BitVec 4) : nibbleOk v.toNat = true := by
  have := v.isLt
  simp only [nibbleOk, Bool.and_eq_true, decide_eq_true_eq]
  omega

/-- The nibbles of a byte, written again (R88). -/
theorem nibbleByte_nibbles (b : Byte) :
    nibbleByte (b.extractLsb' 4 4).toNat (b.extractLsb' 0 4).toNat = b := by
  rw [nibbleByte, BitVec.ofInt_natCast, BitVec.ofInt_natCast, BitVec.ofNat_toNat, BitVec.ofNat_toNat,
    BitVec.setWidth_eq, BitVec.setWidth_eq, BitVec.extractLsb'_append_extractLsb'_eq_extractLsb' (by rfl)]
  exact BitVec.extractLsb'_eq_self

/-- An ignored low nibble is written 0 (R91). -/
theorem nibbleByte_high (b : Byte) : nibbleByte (b.extractLsb' 4 4).toNat 0 = b &&& 0xF0 := by
  rw [← nibbleByte_nibbles (b &&& 0xF0), BitVec.extractLsb'_and, BitVec.extractLsb'_and,
    show (0xF0 : Byte).extractLsb' 4 4 = BitVec.allOnes 4 from rfl, BitVec.and_allOnes,
    show (0xF0 : Byte).extractLsb' 0 4 = 0#4 from rfl, BitVec.and_zero]
  rfl

theorem decodeNibbles_eq_ok {mk : Int → Int → Instr} {bs : List Byte} {i : Instr} {len : Nat}
    (h : decodeNibbles mk bs = .ok (i, len)) :
    ∃ b1 rest, bs = b1 :: rest ∧ i = mk (b1.extractLsb' 4 4).toNat (b1.extractLsb' 0 4).toNat ∧ len = 2 := by
  cases bs with
  | nil => cases h
  | cons b1 rest =>
    cases h
    exact ⟨b1, rest, rfl, rfl, rfl⟩

/-! ### Taking a decoding apart by its shape -/

/-- What was read, `bs`, is the encoding `code` of the operands, but for an ignored nibble (R91). -/
def Rereads (bs code : List Byte) : Fields → Prop
  | .reg _ => ∃ b0 b1 rest, bs = b0 :: b1 :: rest ∧ code = [b0, b1 &&& 0xF0]
  | .number _ => ∃ b0 b1 rest, bs = b0 :: b1 :: rest ∧ code = [b0, b1 &&& 0xF0]
  | .none => code <+: bs
  | .mem _ => code <+: bs
  | .loose _ => code <+: bs
  | .regReg _ _ => code <+: bs
  | .regCount _ _ => code <+: bs

theorem admitSimple_eq_ok {mk : Target → Instr} {r : Form × Nat} {i : Instr} {len : Nat}
    (h : admitSimple mk r = .ok (i, len)) : ∃ t, r = (.simple t, len) ∧ i = mk t := by
  obtain ⟨f, n⟩ := r
  cases f <;> cases h
  exact ⟨_, rfl, rfl⟩

/-- The operands an opcode reads are well-formed and are written as they were read (R88, R90, R91, R97). -/
theorem decodeOperands_eq_ok {b0 c : Byte} {bs : List Byte} {sh : Builder} {i : Instr} {len : Nat}
    (hc : b0 &&& sh.mask = c) (h : decodeOperands b0 bs sh = .ok (i, len)) :
    ∃ f, Builds sh f i ∧ f.wellFormed = true ∧ len = (encodeFields c f).length ∧
      Rereads (b0 :: bs) (encodeFields c f) f := by
  have hall (h : Builder.mask sh = BitVec.allOnes 8) : b0 = c := by rw [← hc, h, BitVec.and_allOnes]
  cases sh with
  | none i' =>
    obtain rfl := hall rfl
    cases h
    exact ⟨_, .none i, rfl, rfl, bs, rfl⟩
  | mem mk =>
    simp only [decodeOperands] at h
    cases hd : decodeForm b0 bs with
    | error e =>
      rw [hd] at h
      cases h
    | ok r =>
      rw [hd] at h
      obtain ⟨t, rfl, rfl⟩ := admitSimple_eq_ok h
      obtain ⟨hwf, hlen, hpre⟩ := decodeForm_eq_ok hc hd
      exact ⟨_, .mem mk t, hwf, hlen, hpre⟩
  | loose mk =>
    obtain ⟨⟨f, n⟩, hd, h⟩ := except_map_eq_ok h
    cases h
    obtain ⟨hwf, hlen, hpre⟩ := decodeForm_eq_ok hc hd
    exact ⟨_, .loose mk f, hwf, hlen, hpre⟩
  | regReg mk =>
    obtain rfl := hall rfl
    obtain ⟨b1, rest, rfl, rfl, rfl⟩ := decodeNibbles_eq_ok h
    refine ⟨_, .regReg mk _ _, ?_, rfl, rest, ?_⟩
    · rw [Fields.wellFormed, nibbleOk_toNat, nibbleOk_toNat]
      rfl
    · rw [encodeFields, nibbleByte_nibbles]
      rfl
  | reg mk =>
    obtain rfl := hall rfl
    obtain ⟨b1, rest, rfl, rfl, rfl⟩ := decodeNibbles_eq_ok (mk := fun r1 _ => mk r1) h
    exact ⟨_, .reg mk _, nibbleOk_toNat _, rfl, b0, b1, rest, rfl, by rw [encodeFields, nibbleByte_high]⟩
  | regCount mk =>
    obtain rfl := hall rfl
    obtain ⟨b1, rest, rfl, rfl, rfl⟩ := decodeNibbles_eq_ok (mk := fun r1 n => mk r1 n.toNat) h
    refine ⟨_, .regCount mk _ _, ?_, rfl, rest, ?_⟩
    · rw [Fields.wellFormed, nibbleOk_toNat]
      exact decide_eq_true (BitVec.isLt _)
    · rw [encodeFields, Int.toNat_natCast, nibbleByte_nibbles]
      rfl
  | number mk =>
    obtain rfl := hall rfl
    obtain ⟨b1, rest, rfl, rfl, rfl⟩ := decodeNibbles_eq_ok (mk := fun n _ => mk n) h
    exact ⟨_, .number mk _, nibbleOk_toNat _, rfl, b0, b1, rest, rfl, by rw [encodeFields, nibbleByte_high]⟩

/-- Bytes that decode begin with a byte that selects an opcode, whose operands follow (R89, R90). -/
theorem decode_eq_ok {bs : List Byte} {i : Instr} {len : Nat} (h : decode bs = .ok (i, len)) :
    ∃ b0 tail op, bs = b0 :: tail ∧ selectOpcode b0 = some op ∧
      decodeOperands b0 tail (builder op) = .ok (i, len) := by
  cases bs with
  | nil => cases h
  | cons b0 tail =>
    cases hsel : selectOpcode b0 with
    | none => simp only [decode, hsel] at h; cases h
    | some op => exact ⟨b0, tail, op, rfl, hsel, by rwa [decode_cons hsel] at h⟩

/-- What bytes decode to is well-formed and was written as it was read (R88, R90, R91, R97). -/
theorem decode_rereads {bs : List Byte} {i : Instr} {len : Nat} (h : decode bs = .ok (i, len)) :
    i.wellFormed = true ∧ len = (encode i).length ∧ Rereads bs (encode i) i.fields := by
  obtain ⟨b0, tail, op, rfl, hsel, hdec⟩ := decode_eq_ok h
  obtain ⟨f, hb, hwf, hlen, hread⟩ := decodeOperands_eq_ok (selects_iff.1 (selectOpcode_eq_some.1 hsel)) hdec
  obtain ⟨-, rfl⟩ := hb.opcode_fields
  rw [← hb.encode_eq] at hlen hread
  exact ⟨hwf, hlen, hread⟩

/-- An encoding has 1 to 4 bytes (R88). -/
theorem encodeFields_length_bounds (c : Byte) {f : Fields} (h : f.wellFormed = true) :
    1 ≤ (encodeFields c f).length ∧ (encodeFields c f).length ≤ 4 := by
  cases f with
  | mem t => have := encodeTarget_length (b0 := c ||| 3) h; simp only [encodeFields]; omega
  | loose f => have := encodeForm_length (b0 := c) h; simp only [encodeFields]; omega
  | none => simp [encodeFields]
  | regReg r1 r2 => simp [encodeFields]
  | reg r1 => simp [encodeFields]
  | regCount r1 n => simp [encodeFields]
  | number n => simp [encodeFields]

/-- Settles O2, from what a decoding of each shape read. -/
theorem decodedInstructionsReencode : Obligations.DecodedInstructionsReencode := by
  unfold Obligations.DecodedInstructionsReencode
  intro bs i len h
  obtain ⟨hwf, rfl, hread⟩ := decode_rereads h
  obtain ⟨h1, h4⟩ := encodeFields_length_bounds (opcodeByte i.opcode) hwf
  refine ⟨hwf, rfl, h1, h4, ?_⟩
  cases hf : i.fields <;> rw [hf] at hread
  case reg | number =>
    obtain ⟨b0, b1, rest, rfl, henc⟩ := hread
    rw [henc]
    exact ⟨by simp, b0, b1, rest, rfl, rfl⟩
  all_goals
    obtain ⟨rest, rfl⟩ := hread
    exact ⟨by simp, List.take_left⟩

end Sys2Proof
end

section
/-! PROOFS. 30_encoding.md: the length rule and the admitted forms, where four bytes are at hand. -/

namespace Sys2Proof

open Machine

/-! ### The opcode bytes of each format (R84, R89, R90) -/

/-- The format of an opcode's shape: 1, 2, or 3 for format 3/4 (R88). -/
def Builder.format : Builder → Nat
  | .none _ => 1
  | .mem _ => 3
  | .loose _ => 3
  | .regReg _ => 2
  | .reg _ => 2
  | .regCount _ => 2
  | .number _ => 2

/-- The bits of the first byte that select an opcode of a format (R89). -/
def formatMask (k : Nat) : Byte := if k = 3 then 0xFC else 0xFF

theorem Builder.mask_eq (sh : Builder) : sh.mask = formatMask sh.format := by
  cases sh <;> rfl

/-- The bytes of R84 in one format. -/
def opcodeBytes (k : Nat) : List Byte :=
  (allOpcodes.filter fun op => decide ((builder op).format = k)).map opcodeByte

theorem mem_opcodeBytes {k : Nat} {c : Byte} :
    c ∈ opcodeBytes k ↔ ∃ op, (builder op).format = k ∧ opcodeByte op = c := by
  simp [opcodeBytes, mem_allOpcodes]

/-- A first byte selects an opcode of format `k` exactly when its masked bits are one of that format's bytes (R89). -/
theorem masked_mem_opcodeBytes {b : Byte} {k : Nat} :
    b &&& formatMask k ∈ opcodeBytes k ↔ ∃ op, selectOpcode b = some op ∧ (builder op).format = k := by
  rw [mem_opcodeBytes]
  refine exists_congr fun op => ?_
  rw [selectOpcode_eq_some, selects_iff, Builder.mask_eq, and_comm]
  exact and_congr_left fun h => by rw [h, eq_comm]

/-- The three lists of R90 are the bytes of R84 by format. -/
theorem lengthR90_eq_by_format (b0 b1 : Byte) : lengthR90 b0 b1 =
    if b0 &&& formatMask 1 ∈ opcodeBytes 1 then some 1
    else if b0 &&& formatMask 2 ∈ opcodeBytes 2 then some 2
    else if b0 &&& formatMask 3 ∈ opcodeBytes 3 then if b0 &&& 3 ≠ 0 ∧ b1 &&& 0x10 ≠ 0 then some 4 else some 3
    else none := by
  have h1 : List.Perm [0xC0, 0xC4, 0xC8, 0xF0, 0xF8] (opcodeBytes 1) := by decide
  have h2 : List.Perm [0x90, 0x94, 0x98, 0x9C, 0xA0, 0xA4, 0xA8, 0xAC, 0xB0, 0xB4, 0xB8] (opcodeBytes 2) := by decide
  have hall : b0 &&& 0xFF = b0 := BitVec.and_allOnes
  simp only [formatMask, OfNat.one_ne_ofNat, Nat.reduceEqDiff, if_false, hall, ← h1.mem_iff, ← h2.mem_iff]
  rfl

/-- The length of an instruction by its shape, from its first two bytes (R88, R90). -/
def Builder.length (b0 b1 : Byte) (sh : Builder) : Nat :=
  if sh.format = 3 ∧ b0 &&& 3 ≠ 0 ∧ b1 &&& 0x10 ≠ 0 then 4 else sh.format

/-- R90 gives the length by the shape of the selected opcode. -/
theorem lengthR90_eq (b0 b1 : Byte) :
    lengthR90 b0 b1 = (selectOpcode b0).map fun op => (builder op).length b0 b1 := by
  rw [lengthR90_eq_by_format]
  simp only [masked_mem_opcodeBytes]
  cases hsel : selectOpcode b0 with
  | none => simp
  | some op =>
    simp only [Option.some.injEq, exists_eq_left', Option.map_some, Builder.length]
    have hformat : (builder op).format = 1 ∨ (builder op).format = 2 ∨ (builder op).format = 3 := by
      cases builder op <;> simp [Builder.format]
    rcases hformat with h | h | h
    · simp [h]
    · simp [h]
    · simp only [h, true_and, OfNat.ofNat_ne_one, Nat.reduceEqDiff, if_false, if_true]
      exact (apply_ite some _ _ _).symm

/-! ### Decoding with four bytes at hand -/

/-- The bits b and p of a second byte whose address R92 and R93 leave undefined. -/
def UndefinedBits (b1 : Byte) : Prop :=
  (b1 &&& 0x10 = 0 ∧ b1 &&& 0x60 = 0x60) ∨ (b1 &&& 0x10 ≠ 0 ∧ b1 &&& 0x60 ≠ 0)

/-- In format 3 only b = p = 1 is undefined (R92). -/
theorem decodeFormat3_cases (x b p : Bool) (d : BitVec 12) :
    (p = true ∧ b = true ∧ decodeFormat3 x b p d = .error .addressingUndefined) ∨
      ¬ (p = true ∧ b = true) ∧ ∃ t, decodeFormat3 x b p d = .ok t := by
  cases b <;> cases p <;> simp [decodeFormat3]

/-- In format 4 only b = p = 0 is defined (R93). -/
theorem decodeFormat4_cases (x b p : Bool) (a : BitVec 20) :
    (¬ (p = false ∧ b = false) ∧ decodeFormat4 x b p a = .error .addressingUndefined) ∨
      (p = false ∧ b = false) ∧ ∃ t, decodeFormat4 x b p a = .ok t := by
  cases b <;> cases p <;> simp [decodeFormat4]

/-- With n = i = 0 a form always decodes, in 3 bytes; with any other n and i it does so exactly where b and p are
defined, in 3 or 4 bytes by the bit e (R90, R92, R93, R96, R97). -/
theorem decodeForm_four_bytes (b0 b1 b2 b3 : Byte) (bs : List Byte) :
    (b0 &&& 3 = 0 ∧ ∃ x a, decodeForm b0 (b1 :: b2 :: b3 :: bs) = .ok (.sic x a, 3)) ∨
    (b0 &&& 3 ≠ 0 ∧ UndefinedBits b1 ∧ decodeForm b0 (b1 :: b2 :: b3 :: bs) = .error .addressingUndefined) ∨
    (b0 &&& 3 ≠ 0 ∧ ¬ UndefinedBits b1 ∧ ∃ t, decodeForm b0 (b1 :: b2 :: b3 :: bs) =
      .ok (wrapForm (b0.getLsbD 1) (b0.getLsbD 0) t, if b1 &&& 0x10 ≠ 0 then 4 else 3)) := by
  by_cases hsic : b0 &&& 3 = 0
  · exact .inl ⟨hsic, _, _, decodeForm_sic hsic⟩
  refine .inr ?_
  cases he : b1.getLsbD 4 with
  | false =>
    have he' := and_e_eq_zero.2 he
    have hund : UndefinedBits b1 ↔ b1.getLsbD 5 = true ∧ b1.getLsbD 6 = true := by
      simp only [UndefinedBits, he', and_bp_eq_both, true_and, ne_eq, not_true_eq_false, false_and, or_false]
    rw [decodeForm_format3 hsic he, hund, if_neg (not_not.2 he')]
    rcases decodeFormat3_cases (b1.getLsbD 7) (b1.getLsbD 6) (b1.getLsbD 5) (b1.extractLsb' 0 4 ++ b2) with
      ⟨hp, hb, h⟩ | ⟨hbp, t, h⟩
    · exact .inl ⟨hsic, ⟨hp, hb⟩, by rw [h]; rfl⟩
    · exact .inr ⟨hsic, hbp, t, by rw [h]; rfl⟩
  | true =>
    have he' : b1 &&& 0x10 ≠ 0 := fun h => by rw [and_e_eq_zero.1 h] at he; cases he
    have hund : UndefinedBits b1 ↔ ¬ (b1.getLsbD 5 = false ∧ b1.getLsbD 6 = false) := by
      simp only [UndefinedBits, he', and_bp_eq_zero, false_and, ne_eq, not_false_eq_true, true_and, false_or]
    rw [decodeForm_format4 hsic he, hund, if_pos he']
    rcases decodeFormat4_cases (b1.getLsbD 7) (b1.getLsbD 6) (b1.getLsbD 5) (b1.extractLsb' 0 4 ++ b2 ++ b3) with
      ⟨hbp, h⟩ | ⟨hbp, t, h⟩
    · exact .inl ⟨hsic, hbp, by rw [h]; rfl⟩
    · exact .inr ⟨hsic, not_not.2 hbp, t, by rw [h]; rfl⟩

/-- With four bytes at hand a selected opcode's operands decode in `n` bytes, or their form is refused (R90, R97). -/
def DecodesIn (n : Nat) (r : Except DecodeError (Instr × Nat)) : Prop :=
  (∃ i, r = .ok (i, n)) ∨ r = .error .formNotAdmitted ∨ r = .error .addressingUndefined

/-- The simple form is admitted and no other (R97). -/
theorem admitSimple_cases (mk : Target → Instr) (f : Form) (n : Nat) :
    (∃ t, f = .simple t ∧ admitSimple mk (f, n) = .ok (mk t, n)) ∨
      (∀ t, f ≠ .simple t) ∧ admitSimple mk (f, n) = .error .formNotAdmitted := by
  cases f <;> simp [admitSimple]

/-- A form that decodes has the length R90 gives by the low bits of the first byte and the bit e. -/
theorem decodeForm_length (b0 b1 b2 b3 : Byte) (bs : List Byte) :
    (∃ f, decodeForm b0 (b1 :: b2 :: b3 :: bs) = .ok (f, if b0 &&& 3 ≠ 0 ∧ b1 &&& 0x10 ≠ 0 then 4 else 3)) ∨
      decodeForm b0 (b1 :: b2 :: b3 :: bs) = .error .addressingUndefined := by
  rcases decodeForm_four_bytes b0 b1 b2 b3 bs with ⟨hsic, x, a, h⟩ | ⟨-, -, h⟩ | ⟨hni, -, t, h⟩
  · exact .inl ⟨_, by rw [h, if_neg fun hne => hne.1 hsic]⟩
  · exact .inr h
  · exact .inl ⟨_, by simpa only [ne_eq, hni, not_false_eq_true, true_and] using h⟩

/-- The operands of a selected opcode decode in its shape's length, or their form is refused (R90, R97). -/
theorem decodeOperands_decodesIn (sh : Builder) (b0 b1 b2 b3 : Byte) (bs : List Byte) :
    DecodesIn (sh.length b0 b1) (decodeOperands b0 (b1 :: b2 :: b3 :: bs) sh) := by
  cases sh with
  | none i => exact .inl ⟨_, rfl⟩
  | regReg mk => exact .inl ⟨_, rfl⟩
  | reg mk => exact .inl ⟨_, rfl⟩
  | regCount mk => exact .inl ⟨_, rfl⟩
  | number mk => exact .inl ⟨_, rfl⟩
  | mem mk =>
    simp only [Builder.length, Builder.format, true_and, decodeOperands]
    rcases decodeForm_length b0 b1 b2 b3 bs with ⟨f, h⟩ | h
    · rcases admitSimple_cases mk f (if b0 &&& 3 ≠ 0 ∧ b1 &&& 0x10 ≠ 0 then 4 else 3) with ⟨t, -, hadm⟩ | ⟨-, hadm⟩
      · exact .inl ⟨mk t, by rw [h]; exact hadm⟩
      · exact .inr (.inl (by rw [h]; exact hadm))
    · exact .inr (.inr (by rw [h]; rfl))
  | loose mk =>
    simp only [Builder.length, Builder.format, true_and, decodeOperands]
    rcases decodeForm_length b0 b1 b2 b3 bs with ⟨f, h⟩ | h
    · exact .inl ⟨mk f, by rw [h]; rfl⟩
    · exact .inr (.inr (by rw [h]; rfl))

/-- Settles O4: R90's lists select the opcodes, and every shape decodes in the length R90 gives. -/
theorem instructionLengthRule : Obligations.InstructionLengthRule := by
  unfold Obligations.InstructionLengthRule
  intro b0 b1 b2 b3 rest
  rw [lengthR90_eq]
  cases hsel : selectOpcode b0 with
  | none => exact ⟨fun _ => by simp only [decode, hsel], nofun⟩
  | some op =>
    refine ⟨nofun, fun n hn => ?_⟩
    cases hn
    rw [decode_cons hsel]
    rcases decodeOperands_decodesIn (builder op) b0 b1 b2 b3 rest with ⟨i, h⟩ | h | h <;> rw [h] <;> simp

/-! ### The admitted forms (R97) -/

/-- A form is admitted by a data opcode or a jump exactly with n = i = 1 (R97). -/
theorem admitSimple_wrapForm {b0 : Byte} (h : b0 &&& 3 ≠ 0) (mk : Target → Instr) (t : Target) (n : Nat) :
    (∃ r, admitSimple mk (wrapForm (b0.getLsbD 1) (b0.getLsbD 0) t, n) = .ok r) ↔ b0 &&& 3 = 3 := by
  rw [Ne, and_three_eq_zero] at h
  rw [and_three_eq_three]
  cases hn : b0.getLsbD 1 <;> cases hi : b0.getLsbD 0
  · exact absurd ⟨hi, hn⟩ h
  all_goals simp [wrapForm, admitSimple]

section
variable (b0 b1 b2 b3 : Byte) (bs : List Byte)

/-- A data opcode or a jump decodes exactly with n = i = 1 and defined b and p (R92, R93, R97). -/
theorem mem_decodes_iff (mk : Target → Instr) :
    (∃ r, decodeOperands b0 (b1 :: b2 :: b3 :: bs) (.mem mk) = .ok r) ↔ b0 &&& 3 = 3 ∧ ¬ UndefinedBits b1 := by
  simp only [decodeOperands]
  rcases decodeForm_four_bytes b0 b1 b2 b3 bs with ⟨hsic, x, a, h⟩ | ⟨-, hund, h⟩ | ⟨hni, hund, t, h⟩ <;> rw [h]
  · rw [hsic]
    simp [Except.bind, admitSimple]
  · simp [Except.bind, hund]
  · exact (admitSimple_wrapForm hni mk t _).trans (and_iff_left hund).symm

/-- RSUB and the format-3/4 placeholders decode with n = i = 0, and else exactly with defined b and p (R92, R93,
R97). -/
theorem loose_decodes_iff (mk : Form → Instr) :
    (∃ r, decodeOperands b0 (b1 :: b2 :: b3 :: bs) (.loose mk) = .ok r) ↔ b0 &&& 3 = 0 ∨ ¬ UndefinedBits b1 := by
  simp only [decodeOperands]
  rcases decodeForm_four_bytes b0 b1 b2 b3 bs with ⟨hsic, x, a, h⟩ | ⟨hni, hund, h⟩ | ⟨-, hund, t, h⟩ <;> rw [h]
  · exact ⟨fun _ => .inl hsic, fun _ => ⟨_, rfl⟩⟩
  · simpa [Except.map, hund] using hni
  · exact ⟨fun _ => .inr hund, fun _ => ⟨_, rfl⟩⟩

end

/-- Settles O5, by the shape of the opcode. -/
theorem admittedFormsOnly : Obligations.AdmittedFormsOnly := by
  unfold Obligations.AdmittedFormsOnly
  intro b0 b1 b2 b3 rest op hsel
  simp only [decode_cons hsel]
  cases hsh : builder op with
  | none i => exact ⟨_, rfl⟩
  | regReg mk => exact ⟨_, rfl⟩
  | reg mk => exact ⟨_, rfl⟩
  | regCount mk => exact ⟨_, rfl⟩
  | number mk => exact ⟨_, rfl⟩
  | mem mk => exact mem_decodes_iff b0 b1 b2 b3 rest mk
  | loose mk => exact loose_decodes_iff b0 b1 b2 b3 rest mk

/-! ### Fixed words of the spec (R98) -/

/-- Settles O6: the decoder run on each word. -/
theorem specWordsDecode : Obligations.SpecWordsDecode := by
  unfold Obligations.SpecWordsDecode
  exact ⟨rfl, fun _ => rfl, rfl, rfl, rfl, rfl, rfl⟩

end Sys2Proof
end

section
/-! PROOFS. 30_encoding.md: a jump in each encoded address form, through the control loop. -/

namespace Sys2Proof.Machine

/-! ### A fetched jump (R92, R93, R350) -/

theorem fetchDecode_eq_ok {s : State} {r : Instr × Nat} (h : fetchDecode s = .ok r) :
    decode (fetchBytes s) = .ok r := by
  unfold fetchDecode at h
  split at h
  · next hd =>
    cases h
    exact hd
  · cases h

/-- A running loop executes what it fetched, with PC advanced (R350). -/
theorem step_of_fetchDecode {s : State} {i : Instr} {len : Nat} (hrun : s.status = .running)
    (h : fetchDecode s = .ok (i, len)) : step s = loopOutcome i s (exec i (s.advance len)) := by
  simp only [step, hrun, loopStep, h]

theorem toNat_trunc (w : Nat) (n : Int) : ((trunc w n).toNat : Int) = n % 2 ^ w := by
  rw [BitVec.toNat_ofInt, Int.toNat_of_nonneg (Int.emod_nonneg _ (by positivity))]
  push_cast
  rfl

theorem wrapAddress_emod (n : Int) : wrapAddress n % 2 ^ 24 = n % 2 ^ 24 :=
  Int.emod_emod_of_dvd n dvd_rfl

/-- PC-relative addressing from the advanced PC, whether or not the advance wrapped (R92, R350). -/
theorem advance_pc_add_emod (s : State) (len : Nat) (d : Int) :
    (((s.advance len).pc.toNat : Int) + d) % 2 ^ 24 = (s.pc.toNat + len + d) % 2 ^ 24 := by
  rw [advance_pc, toNat_trunc, Int.emod_add_emod, Nat.cast_add]

/-- A fetched jump leaves PC at its target, with the loop running (R191, R350). -/
theorem step_jump {s : State} {t : Target} {len : Nat} (hrun : s.status = .running)
    (h : fetchDecode s = .ok (.j t, len)) :
    ∃ u, step s = .next u ∧ u.status = .running ∧
      (u.pc.toNat : Int) = targetEa t (s.advance len) % 2 ^ 24 := by
  refine ⟨_, step_of_fetchDecode hrun h, ?_, ?_⟩
  · rw [observe_status _ _ (finish_result _ _)]
    exact (finish_status _ _).trans hrun
  · rw [observe_pc, finish_pc, setPc_pc, toNat_trunc]

/-- Settles O40, from the target's own length and the address its form names. -/
theorem jumpReachesTheEncodedTarget : Obligations.JumpReachesTheEncodedTarget := by
  unfold Obligations.JumpReachesTheEncodedTarget
  intro s t len hrun h
  obtain ⟨u, hu, hstatus, hpc⟩ := step_jump hrun h
  obtain ⟨hwf, hlen, -⟩ := decode_rereads (fetchDecode_eq_ok h)
  refine ⟨u, hu, hstatus, ?_⟩
  cases t with
  | resolved ea x => cases hwf
  | direct x d => exact ⟨hlen, hpc.trans (wrapAddress_emod _)⟩
  | pcRelative x d =>
    refine ⟨hlen, hpc.trans ((wrapAddress_emod _).trans ?_)⟩
    rw [add_assoc, advance_pc_add_emod, ← add_assoc]
    rfl
  | baseRelative x d => exact ⟨hlen, hpc.trans (wrapAddress_emod _)⟩
  | extended x a => exact ⟨hlen, hpc.trans (wrapAddress_emod _)⟩

end Sys2Proof.Machine
end

section
/-! PROOFS. 30_encoding.md: the engine's records, those the decode stage hands over and those built by hand. -/

namespace Sys2Proof

/-! ### How many operands a shape reads (R82, R83) -/

/-- The number of operands a shape reads from a record; shape I reads none (R82, R177). -/
def Builder.arity : Builder → Nat
  | .none _ => 0
  | .mem _ => 0
  | .loose _ => 0
  | .regReg _ => 2
  | .reg _ => 1
  | .regCount _ => 2
  | .number _ => 0

theorem Builder.arity_le_two (sh : Builder) : sh.arity ≤ 2 := by
  cases sh <;> simp [Builder.arity]

/-- Whether the second operand is a shift count (R85, R250). -/
def Builder.hasCount : Builder → Prop
  | .regCount _ => True
  | .none _ => False
  | .mem _ => False
  | .loose _ => False
  | .regReg _ => False
  | .reg _ => False
  | .number _ => False

/-- The opcodes of shapes RR and RN (R82). -/
theorem mem_twoOperands_iff (op : Opcode) :
    op ∈ [Opcode.addr, .subr, .mulr, .divr, .compr, .rmo, .shiftl, .shiftr] ↔ (builder op).arity = 2 := by
  cases op <;> simp [builder, Builder.arity]

/-- The opcodes of shape R (R82). -/
theorem mem_oneOperand_iff (op : Opcode) : op ∈ [Opcode.clear, .tixr] ↔ (builder op).arity = 1 := by
  cases op <;> simp [builder, Builder.arity]

/-- The opcodes of shape RN (R82). -/
theorem mem_shifts_iff (op : Opcode) : op ∈ [Opcode.shiftl, .shiftr] ↔ (builder op).hasCount := by
  cases op <;> simp [builder, Builder.hasCount]

end Sys2Proof

namespace Sys2Proof.Machine

/-! ### What a result record repeats (R320) -/

/-- The result record has the operand list `l`. -/
def HasOperands (l : List Int) (u : State) : Prop := ∃ r, u.result = some r ∧ r.operands = l

theorem HasOperands.finish {r : Report} {s : State} : HasOperands r.operands (s.finish r) :=
  ⟨_, finish_result r s, rfl⟩

/-- Writing a result record's own operands again changes nothing. -/
theorem HasOperands.withOperands_eq {l : List Int} {u : State} (h : HasOperands l u) : u.withOperands l = u := by
  obtain ⟨r, hr, rfl⟩ := h
  rw [State.withOperands, hr]
  exact congrArg (fun x => { u with result := x }) hr.symm

theorem endsIn_finish_operands {r : Report} {s : State} : EndsIn (HasOperands r.operands) (.next (s.finish r)) :=
  .next .finish

theorem jumpIf_operands (op : Opcode) (c : CC) (t : Target) (s : State) :
    EndsIn (HasOperands []) (jumpIf op c t s) := by
  unfold jumpIf
  split_ifs <;> exact endsIn_finish_operands

theorem execRsub_operands (f : Form) (s : State) : EndsIn (HasOperands []) (execRsub f s) := by
  unfold execRsub
  split_ifs <;> exact endsIn_finish_operands

/-- Every execute that ends repeats the operands of its instruction (R320). -/
theorem exec_operands (i : Instr) (s : State) : EndsIn (HasOperands (fieldOperands i.fields)) (exec i s) := by
  cases i with
  | jeq t | jlt t | jgt t => exact jumpIf_operands _ _ t s
  | rsub f => exact execRsub_operands f s
  | fix | float | norm | sio | tio => exact endsIn_finish_operands
  | ssk f | rd f | td f | wd f | lps f | sti f => exact endsIn_finish_operands
  | svc n => exact endsIn_finish_operands
  | j t | jsub t => exact endsIn_finish_operands
  | div t | divf t => exact .orFault fun _ _ => .orFault fun _ _ => endsIn_finish_operands
  | divr r1 r2 => exact .orFault fun _ _ => .orFault fun _ _ => endsIn_finish_operands
  | add t | sub t | mul t | and t | or t | comp t | tix t => exact .orFault fun _ _ => endsIn_finish_operands
  | addf t | subf t | mulf t | compf t | ldf t | stf t => exact .orFault fun _ _ => endsIn_finish_operands
  | lda t | ldb t | ldl t | lds t | ldt t | ldx t | ldch t => exact .orFault fun _ _ => endsIn_finish_operands
  | sta t | stb t | stl t | sts t | stt t | stx t | stch t => exact .orFault fun _ _ => endsIn_finish_operands
  | addr r1 r2 | subr r1 r2 | mulr r1 r2 | compr r1 r2 | rmo r1 r2 =>
    exact .orFault fun _ _ => endsIn_finish_operands
  | clear r1 | tixr r1 => exact .orFault fun _ _ => endsIn_finish_operands
  | shiftl r1 n | shiftr r1 n => exact .orFault fun _ _ => endsIn_finish_operands

/-! ### The record of an instruction (R80, R91, R94) -/

/-- An execute of shape M sees its target's effective address only (R80). -/
theorem exec_resolved {op : Opcode} {mk : Target → Instr} (h : builder op = .mem mk) (t : Target) (x : Bool)
    (s : State) : exec (mk (.resolved (targetEa t s) x)) s = exec (mk t) s := by
  cases op <;> cases h <;> rfl

/-- RSUB and the placeholders ignore their address (R97). -/
theorem exec_loose_congr {op : Opcode} {mk : Form → Instr} (h : builder op = .loose mk) (f f' : Form) (s : State) :
    exec (mk f) s = exec (mk f') s := by
  cases op <;> cases h <;> rfl

/-- The engine reads the record of an instruction as one with the same effect. -/
theorem exec_record (i : Instr) (s : State) :
    ∃ i', (record i s).toInstr = .ok i' ∧ exec i' s = exec i s := by
  have hb := builds_builder i
  simp only [record, Record.toInstr]
  generalize hf : i.fields = f at hb ⊢
  generalize hsh : builder i.opcode = sh at hb ⊢
  cases hb with
  | none => exact ⟨_, rfl, rfl⟩
  | mem mk t => exact ⟨_, rfl, exec_resolved hsh t _ s⟩
  | loose mk f => exact ⟨_, rfl, exec_loose_congr hsh _ f s⟩
  | regReg mk r1 r2 => exact ⟨_, rfl, rfl⟩
  | reg mk r1 => exact ⟨_, rfl, rfl⟩
  | regCount mk r1 n => exact ⟨_, if_neg (by omega), rfl⟩
  | number mk n => exact ⟨_, rfl, rfl⟩

/-! ### One execute of a record, by what the record is -/

section
variable {r : Record} {i : Instr} {s : State}

theorem execute_of_next {t : State} (hi : r.toInstr = .ok i) (he : exec i s = .next t) :
    execute r s = .next (t.withOperands r.operands) := by
  simp only [execute, hi, he]

theorem execute_of_fault {f : EngineFault} (hi : r.toInstr = .ok i) (he : exec i s = .fault (.engine f)) :
    execute r s = .next (s.recordFault r.opcode r.operands f) := by
  simp only [execute, hi, he]

theorem execute_of_refused {e : Refusal} (hi : r.toInstr = .error e) : execute r s = .refused e := by
  simp only [execute, hi]

/-- An execute is refused only for what the record is, not for the state (R83, R300). -/
theorem execute_refused_iff : (∃ e, execute r s = .refused e) ↔ ∃ e, r.toInstr = .error e := by
  refine ⟨fun ⟨e, he⟩ => ?_, fun ⟨e, he⟩ => ⟨e, execute_of_refused he⟩⟩
  rcases execute_cases r s with ⟨e', hr, -⟩ | ⟨_, _, -, -, h⟩ | ⟨_, _, -, -, h⟩
  · exact ⟨e', hr⟩
  · rw [h] at he
    cases he
  · rw [h] at he
    cases he

end

/-- Settles O54: the record is read as an instruction of the same effect, and repeats the operands. -/
theorem executeOfTheRecordIsExec : Obligations.ExecuteOfTheRecordIsExec := by
  unfold Obligations.ExecuteOfTheRecordIsExec
  intro i s
  obtain ⟨i', hi', hexec⟩ := exec_record i s
  refine ⟨fun u hu => ?_, fun f hf => ?_⟩
  · have hops : u.withOperands (record i s).operands = u := (exec_operands i s u hu).withOperands_eq
    rw [execute_of_next hi' (hexec.trans hu), hops]
  · exact ⟨.free s.freeTraces, s.freeTraces + 1, execute_of_fault hi' (hexec.trans hf)⟩

/-! ### Records that are refused (R83, R85, R250) -/

/-- A record is no instruction exactly when it is short of operands or counts below zero (R83, R85, R250). -/
theorem toInstr_eq_error_iff (r : Record) : (∃ e, r.toInstr = .error e) ↔
    r.operands.length < (builder r.opcode).arity ∨
      ((builder r.opcode).hasCount ∧ ∃ r1 n rest, r.operands = r1 :: n :: rest ∧ n < 0) := by
  obtain ⟨op, l, x, ea⟩ := r
  simp only [Record.toInstr]
  cases builder op with
  | none i => simp [Builder.arity, Builder.hasCount]
  | mem mk => simp [Builder.arity, Builder.hasCount]
  | loose mk => simp [Builder.arity, Builder.hasCount]
  | regReg mk => rcases l with _ | ⟨r1, _ | ⟨r2, l⟩⟩ <;> simp [Builder.arity, Builder.hasCount]
  | reg mk => rcases l with _ | ⟨r1, l⟩ <;> simp [Builder.arity, Builder.hasCount]
  | regCount mk =>
    rcases l with _ | ⟨r1, _ | ⟨n, l⟩⟩
    · simp [Builder.arity, Builder.hasCount]
    · simp [Builder.arity, Builder.hasCount]
    · by_cases hn : n < 0 <;> simp [Builder.arity, Builder.hasCount, hn]
  | number mk => cases l <;> simp [Builder.arity, Builder.hasCount]

/-- Settles O57, from when a record is no instruction. -/
theorem recordsRefusedExactly : Obligations.RecordsRefusedExactly := by
  unfold Obligations.RecordsRefusedExactly
  intro r s
  rw [execute_refused_iff, toInstr_eq_error_iff, mem_twoOperands_iff, mem_oneOperand_iff, mem_shifts_iff, ← or_assoc]
  refine or_congr_left ?_
  cases builder r.opcode <;> simp [Builder.arity]

/-! ### Extra operands (R83, R241) -/

theorem withOperands_withOperands (l l' : List Int) (s : State) :
    (s.withOperands l).withOperands l' = s.withOperands l' := by
  simp only [State.withOperands, Option.map_map]
  rfl

/-- Records of one opcode that are the same instruction differ in what their result records repeat. -/
theorem execute_congr {r r' : Record} (hop : r'.opcode = r.opcode) (hi : r'.toInstr = r.toInstr) (s : State) :
    execute r' s = mapNext (State.withOperands r'.operands) (execute r s) := by
  rcases execute_cases r s with ⟨e, hr, h⟩ | ⟨i, t, hr, he, h⟩ | ⟨i, f, hr, he, h⟩
  · rw [h, execute_of_refused (hi.trans hr)]
    rfl
  · rw [h, execute_of_next (hi.trans hr) he, mapNext, withOperands_withOperands]
  · rw [h, execute_of_fault (hi.trans hr) he, hop]
    rfl

/-- SVC is the one opcode of shape I (R82). -/
theorem builder_eq_number {op : Opcode} {mk : Int → Instr} (h : builder op = .number mk) : mk = .svc := by
  cases op <;> cases h
  rfl

/-- Operands after those the shape reads do not change the instruction, but for the call number of SVC, which nothing
reads (R82, R83, R177). -/
theorem toInstr_append {r : Record} (h : (builder r.opcode).arity ≤ r.operands.length) (extra : List Int) :
    Record.toInstr { r with operands := r.operands ++ extra } = r.toInstr ∨
      ∃ m n, Record.toInstr { r with operands := r.operands ++ extra } = .ok (.svc m) ∧ r.toInstr = .ok (.svc n) := by
  obtain ⟨op, l, x, ea⟩ := r
  simp only [Record.toInstr] at h ⊢
  cases hsh : builder op <;> rw [hsh] at h
  case number mk =>
    obtain rfl := builder_eq_number hsh
    right
    cases l <;> cases extra <;> exact ⟨_, _, rfl, rfl⟩
  case none | mem | loose => exact .inl rfl
  case reg =>
    obtain ⟨r1, l, rfl⟩ := List.exists_cons_of_length_pos h
    exact .inl rfl
  case regReg | regCount =>
    rcases l with _ | ⟨r1, _ | ⟨r2, l⟩⟩ <;> simp [Builder.arity] at h ⊢

/-- Settles O58, from what the instruction of a record depends on. -/
theorem extraOperandsAreIgnored : Obligations.ExtraOperandsAreIgnored := by
  unfold Obligations.ExtraOperandsAreIgnored
  intro r s extra h2 h1
  rw [mem_twoOperands_iff] at h2
  rw [mem_oneOperand_iff] at h1
  have harity : (builder r.opcode).arity ≤ r.operands.length := by
    have h := Builder.arity_le_two (builder r.opcode)
    omega
  rcases toInstr_append harity extra with hi | ⟨m, n, hm, hn⟩
  · exact execute_congr (r := r) (r' := { r with operands := r.operands ++ extra }) rfl hi s
  · rw [execute_of_next hm rfl, execute_of_next hn rfl, mapNext, withOperands_withOperands]
    rfl

end Sys2Proof.Machine
end

section
/-! PROOFS. 40_word_arith.md: the ALU's integer laws as bit-vector operations, and word arithmetic with a memory
operand. -/

namespace Sys2Proof.Machine

/-! ### The ALU's laws as bit-vector operations (R112 to R114, R117, R250) -/

section
variable {w : Nat} (a b : BitVec w) (n : Nat)

theorem addW_eq_add : addW a b = a + b := by
  rw [addW, trunc, BitVec.ofInt_add, BitVec.ofInt_toInt, BitVec.ofInt_toInt]

theorem subW_eq_sub : subW a b = a - b :=
  BitVec.eq_of_toInt_eq (by rw [subW, BitVec.toInt_ofInt, BitVec.toInt_sub])

theorem mulW_eq_mul : mulW a b = a * b := by
  rw [mulW, trunc, BitVec.ofInt_mul, BitVec.ofInt_toInt, BitVec.ofInt_toInt]

/-- The signedness of multiply is unobservable (R113). -/
theorem mulW_eq_trunc_toNat : mulW a b = trunc w ((a.toNat : Int) * b.toNat) := by
  rw [mulW_eq_mul, trunc, BitVec.ofInt_mul, BitVec.ofInt_natCast, BitVec.ofInt_natCast, BitVec.ofNat_toNat,
    BitVec.ofNat_toNat, BitVec.setWidth_eq, BitVec.setWidth_eq]

/-- Both truncate the quotient toward zero and wrap the overflowing one; for a zero divisor both give 0 (R114). -/
theorem divW_eq_sdiv : divW a b = a.sdiv b :=
  BitVec.eq_of_toInt_eq (by rw [divW, BitVec.toInt_ofInt, BitVec.toInt_sdiv])

theorem shiftLeftW_eq_shiftLeft : shiftLeftW a n = a <<< n :=
  BitVec.eq_of_toNat_eq (by
    rw [shiftLeftW, trunc, BitVec.ofInt_natCast, BitVec.toNat_ofNat, BitVec.toNat_shiftLeft, Nat.shiftLeft_eq])

theorem shiftRightW_eq_ushiftRight : shiftRightW a n = a >>> n := by
  rw [shiftRightW, trunc, BitVec.ofInt_natCast, ← Nat.shiftRight_eq_div_pow, ← BitVec.toNat_ushiftRight,
    BitVec.ofNat_toNat, BitVec.setWidth_eq]

variable {a n}

theorem shiftLeftW_eq_zero (h : w ≤ n) : shiftLeftW a n = 0 := by
  rw [shiftLeftW_eq_shiftLeft]
  exact BitVec.shiftLeft_eq_zero h

theorem shiftRightW_eq_zero (h : w ≤ n) : shiftRightW a n = 0 := by
  rw [shiftRightW_eq_ushiftRight]
  exact BitVec.ushiftRight_eq_zero h

end

/-- Settles O50, law by law. -/
theorem aluIsTwosComplement : Obligations.AluIsTwosComplement := by
  unfold Obligations.AluIsTwosComplement
  intro w a b n
  exact ⟨addW_eq_add a b, subW_eq_sub a b, mulW_eq_mul a b, mulW_eq_trunc_toNat a b, fun _ => divW_eq_sdiv a b,
    shiftLeftW_eq_shiftLeft a n, shiftRightW_eq_ushiftRight a n,
    fun h => ⟨shiftLeftW_eq_zero h, shiftRightW_eq_zero h⟩⟩

/-! ### Division's test and sign table (R114) -/

/-- A division by anything but 0 goes on with the quotient. -/
theorem divide_of_ne_zero {w : Nat} {b : BitVec w} (h : b.toInt ≠ 0) (op : Opcode) (a : BitVec w) :
    divide op a b = .ok (divW a b) :=
  divide_eq_ok.2 ⟨h, rfl⟩

/-- A division by 0 fails and records its opcode (R304). -/
theorem divide_of_eq_zero {w : Nat} {b : BitVec w} (h : b.toInt = 0) (op : Opcode) (a : BitVec w) :
    divide op a b = .error (.divideByZeroFault op) :=
  divide_eq_error.2 ⟨h, rfl⟩

/-- Settles O51: the nine rows with fixed operands evaluated, the last from the zero-divisor test. -/
theorem divisionSignTable : Obligations.DivisionSignTable := by
  unfold Obligations.DivisionSignTable
  refine ⟨?_, ?_, ?_, ?_, ?_, ?_, ?_, ?_, ?_, divide_of_eq_zero BitVec.toInt_zero⟩ <;> decide

/-! ### Word operands -/

/-- An execute whose check succeeds goes on with the checked value (R110). -/
theorem orFault_of_ok {α : Type} {r : Except EngineFault α} {v : α} (h : r = .ok v) (k : α → Answer) :
    orFault r k = k v := by
  rw [h, orFault_ok]

/-- An execute that reads its operand word first faults where the address is misaligned, and where it is aligned but
outside memory, whatever would follow (R54, R61, R110). -/
theorem orFault_readWord_faults (s : State) (ea : Int) (k : Word → Answer) :
    (misaligned ea → orFault (s.readWord ea) k = .fault (.engine (.alignmentFault ea))) ∧
    (outside s 0 ea → orFault (s.readWord ea) k = .fault (.engine (.memoryBoundsFault ea))) :=
  ⟨fun h => orFault_of_error (readWord_eq_error.2 (access_of_misaligned h)) k,
    fun h => orFault_of_error (readWord_eq_error.2 (access_of_outside h)) k⟩

/-! ### A result into a register, with its sign (R30, R110) -/

/-- What an execute of `i` reports that ends Ok with condition code `cc` and no jump condition (R320). -/
def okReport (i : Instr) (cc : Option CC) (trace : Option Trace) : Report where
  opcode := i.opcode
  operands := fieldOperands i.fields
  newCC := cc
  trace := trace

/-- An execute that writes `r` to register `g` and reports its sign completes with that result and nothing else
changed. -/
theorem completesInto_of_setReg {i : Instr} {g : GReg} {r : Word} {fixed : Option Trace} {s : State}
    (h : exec i s = .next ((s.setReg g r).finish (okReport i (some (ccSign r)) fixed))) :
    completesInto i g r fixed s := by
  refine ⟨_, h, by simp, by simp, by simp, fun a => by simp, ?_⟩
  rw [← ccSign_eq_signCC]
  have others (g' : GReg) (hg' : g' ∉ [g]) : (s.setReg g r).reg g' = s.reg g' :=
    reg_setReg_other (fun heq => hg' (List.mem_singleton.2 heq.symm)) r s
  exact Leaves.finish (r := okReport i (some (ccSign r)) fixed) (.setReg g r s) others rfl rfl

/-- What the six instructions of R120 to R125 share: they end with a result accumulated in A. -/
theorem completesInto_of_accumulate {i : Instr} {r : Word} {s : State} (hl : fieldOperands i.fields = [])
    (h : exec i s = accumulate i.opcode r s) : completesInto i .a r (some (.word i.opcode r)) s :=
  completesInto_of_setReg (by rw [h, accumulate, okReport, hl])

/-! ### Word arithmetic with a memory operand (R120 to R125) -/

/-- Settles O30: where the operand is read, each instruction accumulates its ALU law's result, DIV after its
zero-divisor test; where the read fails, each faults with it. -/
theorem wordArithmeticIntoA : Obligations.WordArithmeticIntoA := by
  unfold Obligations.WordArithmeticIntoA
  intro t s
  refine ⟨fun w hea hw => ?_, ?_⟩
  · have hread (k : Word → Answer) : orFault (s.readWord (targetEa t s)) k = k (wordAt s (3 * w)) :=
      orFault_of_ok (readWord_inside hea hw) k
    refine ⟨?add, ?sub, ?mul, fun hm => ?div, fun hm => ?divZero, ?and, ?or⟩
    case add | sub | mul | and | or => exact completesInto_of_accumulate rfl (hread _)
    case div =>
      exact completesInto_of_accumulate rfl ((hread _).trans (orFault_of_ok (divide_of_ne_zero hm .div s.regA) _))
    case divZero => exact (hread _).trans (orFault_of_error (divide_of_eq_zero hm .div s.regA) _)
  · have faults (k : Word → Answer) := orFault_readWord_faults s (targetEa t s) k
    simp only [List.forall_mem_cons, List.not_mem_nil, false_implies, implies_true, and_true]
    exact ⟨faults _, faults _, faults _, faults _, faults _, faults _⟩

end Sys2Proof.Machine
end

section
/-! PROOFS. 41_register_arith.md: arithmetic of one register into another. -/

namespace Sys2Proof.Machine

/-! ### Register arithmetic (R140 to R144) -/

/-- An execute that checks two registers' own ordinals goes on with those registers (R21, R140). -/
theorem orFault_ordinalRegs_ordinal (g1 g2 : GReg) (k : GReg × GReg → Answer) :
    orFault (ordinalRegs g1.ordinal g2.ordinal) k = k (g1, g2) :=
  orFault_of_ok (ordinalRegs_ordinal g1 g2) k

/-- What the four instructions of R141 to R144 share: they end with a result in x[r2]. -/
theorem completesInto_of_intoReg {i : Instr} {r1 r2 : Int} {g2 : GReg} {r : Word} {s : State}
    (hl : fieldOperands i.fields = [r1, r2]) (h : exec i s = intoReg i.opcode r1 r2 g2 r s) :
    completesInto i g2 r (some (.word i.opcode r)) s :=
  completesInto_of_setReg (by rw [h, intoReg, okReport, hl])

/-- Settles O31: for two registers each instruction puts its ALU law's result into x[r2], DIVR after its test of x[r1];
a bad ordinal faults as in each of the ten instructions that check one (O22). -/
theorem registerArithmeticIntoR2 : Obligations.RegisterArithmeticIntoR2 := by
  unfold Obligations.RegisterArithmeticIntoR2
  intro s
  refine ⟨fun g1 g2 => ?_, fun r1 r2 i hi => ?_⟩
  · have hregs (k : GReg × GReg → Answer) := orFault_ordinalRegs_ordinal g1 g2 k
    refine ⟨?addr, ?subr, ?mulr, fun hd => ?divr, fun hd => ?divrZero⟩
    case addr | subr | mulr => exact completesInto_of_intoReg rfl (hregs _)
    case divr =>
      exact completesInto_of_intoReg rfl ((hregs _).trans (orFault_of_ok (divide_of_ne_zero hd .divr (s.reg g2)) _))
    case divrZero => exact (hregs _).trans (orFault_of_error (divide_of_eq_zero hd .divr (s.reg g2)) _)
  · obtain ⟨hbad1, hbad2⟩ := badOrdinalFaults s r1 r2 0
    exact ⟨fun h1 => hbad1 h1 i (List.mem_append_left _ hi), fun h1 h2 => hbad2 h1 h2 i (List.mem_append_left _ hi)⟩

end Sys2Proof.Machine
end

section
/-! PROOFS. 42_extended.md: arithmetic and comparison on F, its conversions from and to A, and the comparisons of
words. -/

namespace Sys2Proof.Machine

/-! ### 48-bit operands (R57, R151) -/

/-- An execute that reads its 48-bit operand first faults where the address is misaligned, and where it is aligned but
one of the two words lies outside memory, whatever would follow (R57, R61, R151). -/
theorem orFault_read48_faults (s : State) (ea : Int) (k : Word48 → Answer) :
    (misaligned ea → orFault (s.read48 ea) k = .fault (.engine (.alignmentFault ea))) ∧
    (outside s 1 ea → orFault (s.read48 ea) k = .fault (.engine (.memoryBoundsFault ea))) :=
  ⟨fun h => orFault_of_error (read48_eq_error.2 (access_of_misaligned h)) k,
    fun h => orFault_of_error (read48_eq_error.2 (access_of_outside h)) k⟩

/-! ### Executes that write F (R26, R151) -/

section
variable {i : Instr} {s : State}

/-- An execute that writes `v` to F and ends Ok leaves `v` in F and nothing else changed but CC, if it reports one. -/
theorem exists_next_of_setF {v : Word48} {cc : Option CC} {fixed : Option Trace}
    (h : exec i s = .next ((s.setF v).finish (okReport i cc fixed))) :
    ∃ u, exec i s = .next u ∧ u.regF = v ∧ u.pc = s.pc ∧ sameMem s u ∧ Leaves [] i .ok cc none fixed s u :=
  ⟨_, h, by simp, by simp, fun a => by simp,
    Leaves.finish (r := okReport i cc fixed) (.setF v s) (fun g _ => reg_setF g v s) rfl rfl⟩

/-- What the four instructions of R152 to R155 share: they end with a result in F, and its sign in CC only if
`FLOAT_ARITH_SETS_CC`. -/
theorem completesIntoF_of_intoF {r : Word48} (hl : fieldOperands i.fields = [])
    (h : exec i s = intoF i.opcode r s) : completesIntoF i r s :=
  exists_next_of_setF (by rw [h, intoF, okReport, hl, ccSign_eq_signCC])

end

/-- Settles O32: where both operand words are read, each instruction puts its ALU law's result into F, DIVF after its
zero-divisor test; where the read fails, each faults with it. -/
theorem extendedArithmeticIntoF : Obligations.ExtendedArithmeticIntoF := by
  unfold Obligations.ExtendedArithmeticIntoF
  intro t s
  refine ⟨fun w hea hw => ?_, ?_⟩
  · have hread (k : Word48 → Answer) : orFault (s.read48 (targetEa t s)) k = k (word48At s (3 * w)) :=
      orFault_of_ok (read48_inside hea hw) k
    refine ⟨?addf, ?subf, ?mulf, fun hm => ?divf, fun hm => ?divfZero⟩
    case addf | subf | mulf => exact completesIntoF_of_intoF rfl (hread _)
    case divf =>
      exact completesIntoF_of_intoF rfl ((hread _).trans (orFault_of_ok (divide_of_ne_zero hm .divf s.regF) _))
    case divfZero => exact (hread _).trans (orFault_of_error (divide_of_eq_zero hm .divf s.regF) _)
  · have faults (k : Word48 → Answer) := orFault_read48_faults s (targetEa t s) k
    simp only [List.forall_mem_cons, List.not_mem_nil, false_implies, implies_true, and_true]
    exact ⟨faults _, faults _, faults _, faults _⟩

/-! ### Comparisons (R156, R242, R243) -/

/-- An execute that only reports a comparison completes with it in CC and nothing else changed, at either width
(R31). -/
theorem completesWithCC_of_ccCmp {i : Instr} {s : State} {w : Nat} {mode : CmpMode} {a b : BitVec w}
    (h : exec i s = .next (s.finish (okReport i (some (ccCmp mode a b)) none))) :
    completesWithCC i (compareCC mode a b) s := by
  refine ⟨_, h, by simp, by simp, fun a => by simp, ?_⟩
  rw [← ccCmp_eq_compareCC]
  exact Leaves.finish (r := okReport i (some (ccCmp mode a b)) none) (.refl s) (fun _ _ => rfl) rfl rfl

/-- Settles O33: where its operands are read each instruction reports their comparison; the two memory reads fault as
those of the arithmetic, COMPR as in each of the ten instructions that check an ordinal (O22). -/
theorem comparisonsWriteOnlyCC : Obligations.ComparisonsWriteOnlyCC := by
  unfold Obligations.ComparisonsWriteOnlyCC
  intro t s
  have faults48 (k : Word48 → Answer) := orFault_read48_faults s (targetEa t s) k
  have faults (k : Word → Answer) := orFault_readWord_faults s (targetEa t s) k
  refine ⟨fun w hea hw => ?compf, fun w hea hw => ?comp, fun g1 g2 => ?compr, ?misaligned, (faults48 _).2,
    (faults _).2, fun r1 r2 => ?badOrdinal⟩
  case compf => exact completesWithCC_of_ccCmp (orFault_of_ok (read48_inside hea hw) _)
  case comp => exact completesWithCC_of_ccCmp (orFault_of_ok (readWord_inside hea hw) _)
  case compr => exact completesWithCC_of_ccCmp (orFault_ordinalRegs_ordinal g1 g2 _)
  case misaligned =>
    simp only [List.forall_mem_cons, List.not_mem_nil, false_implies, implies_true, and_true]
    exact ⟨(faults48 _).1, (faults _).1⟩
  case badOrdinal =>
    obtain ⟨hbad1, hbad2⟩ := badOrdinalFaults s r1 r2 0
    exact ⟨fun h1 => hbad1 h1 _ (by simp), fun h1 h2 => hbad2 h1 h2 _ (by simp)⟩

/-! ### FIX and FLOAT (R157, R158) -/

/-- Truncating the integer a bit vector holds keeps its low bits (R10, R157). -/
theorem trunc_toInt_eq_extractLsb' {v w : Nat} (h : w ≤ v) (x : BitVec v) :
    trunc w x.toInt = x.extractLsb' 0 w :=
  (BitVec.signExtend_eq_setWidth_of_le x h).trans (BitVec.setWidth_eq_extractLsb' h)

/-- The low bits of a sign-extended value are the value (R158). -/
theorem extractLsb'_signExtend {v w : Nat} (h : w ≤ v) (x : BitVec w) :
    (x.signExtend v).extractLsb' 0 w = x := by
  rw [← trunc_toInt_eq_extractLsb' h, BitVec.toInt_signExtend_of_le h, trunc, BitVec.ofInt_toInt]

/-- An execute that writes `v` to register `g` and reports no condition code completes with it and nothing else
changed. -/
theorem completesMove_of_setReg {i : Instr} {g : GReg} {v : Word} {s : State}
    (h : exec i s = .next ((s.setReg g v).finish (okReport i none none))) : completesMove i g v s := by
  have others (g' : GReg) (hg' : g' ∉ [g]) : (s.setReg g v).reg g' = s.reg g' :=
    reg_setReg_other (fun heq => hg' (List.mem_singleton.2 heq.symm)) v s
  exact ⟨_, h, by simp, by simp, by simp, fun a => by simp,
    Leaves.finish (r := okReport i none none) (.setReg g v s) others rfl rfl⟩

/-- Settles O34: FIX is a move into A and FLOAT a write of F, both without a condition code. -/
theorem fixNarrowsAndFloatWidens : Obligations.FixNarrowsAndFloatWidens := by
  unfold Obligations.FixNarrowsAndFloatWidens
  intro s
  constructor
  · rw [← trunc_toInt_eq_extractLsb' (by decide)]
    exact completesMove_of_setReg rfl
  · exact exists_next_of_setF (v := trunc 48 s.regA.toInt) rfl

/-- Settles O35, from what the two instructions write (O34): FIX reads the F that FLOAT leaves, and not A. -/
theorem fixAfterFloatRestoresA : Obligations.FixAfterFloatRestoresA := by
  unfold Obligations.FixAfterFloatRestoresA
  intro s
  obtain ⟨-, u, hu, hF, -⟩ := fixNarrowsAndFloatWidens s
  obtain ⟨⟨v, hv, hA, -⟩, -⟩ := fixNarrowsAndFloatWidens { u with regA := 0 }
  refine ⟨u, v, hu, hv, ?_⟩
  calc v.regA = u.regF.extractLsb' 0 24 := hA
    _ = (s.regA.signExtend 48).extractLsb' 0 24 := by rw [hF]
    _ = s.regA := extractLsb'_signExtend (by decide) s.regA

end Sys2Proof.Machine
end

section
/-! PROOFS. 43_placeholders.md: the ten placeholders. -/

namespace Sys2Proof.Machine

/-- An execute that writes no condition code ends with its result record returned and, where that record's trace is
open, one free trace used up; everything else stays (R110 phases 5 and 6). -/
theorem finish_of_newCC_none {r : Report} (h : r.newCC = none) (s : State) :
    s.finish r =
      { s with
        result := some (r.result s.freeTraces)
        freeTraces := if r.trace.isNone then s.freeTraces + 1 else s.freeTraces } := by
  rw [State.finish, h, setOptCC_none, State.report]

/-- An instruction with a placeholder's opcode that only skips completes with its result record, marked unimplemented,
and nothing of the machine changed (R170). -/
theorem completesUnimplemented_of_skip {i : Instr} {s : State} (hp : isPlaceholder i.opcode = true)
    (h : exec i s = skip i.opcode (fieldOperands i.fields) s) :
    ∃ (tr : Trace) (n : Nat), exec i s = .next
      { s with
        result := some
          { opcode := i.opcode, operands := fieldOperands i.fields, newCC := none, outcome := .ok, unimpl := true,
            condMet := none, trace := tr }
        freeTraces := n } := by
  refine ⟨.free s.freeTraces, s.freeTraces + 1, ?_⟩
  rw [h, skip, finish_of_newCC_none rfl, Report.result, hp]
  rfl

/-- Settles O36: each of the ten skips, whatever its operand, and its opcode is marked unimplemented. -/
theorem placeholdersChangeNothing : Obligations.PlaceholdersChangeNothing := by
  unfold Obligations.PlaceholdersChangeNothing
  intro s f k
  simp only [List.forall_mem_cons, List.not_mem_nil, false_implies, implies_true, and_true]
  refine ⟨?norm, ?sio, ?ssk, ?rd, ?tio, ?td, ?svc, ?wd, ?lps, ?sti⟩
  case norm | sio | ssk | rd | tio | td | svc | wd | lps | sti => exact completesUnimplemented_of_skip rfl rfl

end Sys2Proof.Machine
end

section
/-! PROOFS. 44_control_flow.md: jumps, calls and returns, in one execute and through the control loop. -/

namespace Sys2Proof.Machine

/-! ### Executes that end in a jump (R190 to R194) -/

section
variable {i : Instr} {s : State}

/-- An execute without operands that ends Ok after an effect `s'` on PC and the registers in `writes` alone completes
with the PC of `s'`. -/
theorem completesJump_of_finish {s' : State} {writes : List GReg} {cond : Option Bool} (he : Effect s s')
    (hregF : s'.regF = s.regF) (hmem : s'.mem = s.mem) (hsaved : ∀ g ∈ writes, s'.reg g = s.pc)
    (hkept : ∀ g, g ∉ writes → s'.reg g = s.reg g) (hl : fieldOperands i.fields = [])
    (h : exec i s = .next (s'.finish { opcode := i.opcode, condMet := cond })) :
    completesJump i writes s'.pc cond s :=
  ⟨_, h, by simp, by simpa using hsaved, by simp [hregF], fun a => by simp [hmem],
    Leaves.finish (r := { opcode := i.opcode, condMet := cond }) he hkept rfl hl.symm⟩

/-- A jump to `n`, aligned or not, inside memory or not, writes PC alone (R190). -/
theorem completesJump_of_setPc {n : Int} {cond : Option Bool} (hl : fieldOperands i.fields = [])
    (h : exec i s = .next ((s.setPc n).finish { opcode := i.opcode, condMet := cond })) :
    completesJump i [] (trunc 24 n) cond s :=
  completesJump_of_finish (.setPc n s) rfl rfl (by simp) (fun g _ => reg_setPc g n s) hl h

/-- What JEQ, JLT and JGT share: they jump exactly where SW holds their condition code (R192 to R194). -/
theorem completesJump_of_jumpIf {c : CC} {t : Target} (hl : fieldOperands i.fields = [])
    (h : exec i s = jumpIf i.opcode c t s) :
    (s.ccBits = c.code → completesJump i [] (trunc 24 (targetEa t s)) (some true) s) ∧
    (s.ccBits ≠ c.code → completesJump i [] s.pc (some false) s) := by
  refine ⟨fun hcc => ?taken, fun hcc => ?notTaken⟩
  case taken => exact completesJump_of_setPc hl (by rw [h, jumpIf, if_pos hcc])
  case notTaken =>
    exact completesJump_of_finish (.refl s) rfl rfl (by simp) (fun _ _ => rfl) hl (by rw [h, jumpIf, if_neg hcc])

end

/-- Settles O37: J is a write of PC, and the three conditional jumps are one at their own condition code. -/
theorem jumpsSetOnlyPC : Obligations.JumpsSetOnlyPC := by
  unfold Obligations.JumpsSetOnlyPC
  intro t s
  refine ⟨completesJump_of_setPc rfl rfl, ?_⟩
  simp only [List.forall_mem_cons, List.not_mem_nil, false_implies, implies_true, and_true]
  refine ⟨?jeq, ?jlt, ?jgt⟩
  case jeq => exact completesJump_of_jumpIf (c := .eq) rfl rfl
  case jlt => exact completesJump_of_jumpIf (c := .lt) rfl rfl
  case jgt => exact completesJump_of_jumpIf (c := .gt) rfl rfl

/-! ### Calls and returns (R195, R196) -/

section
variable (f : Form) {s : State}

/-- RSUB with L = 0 halts (R196). -/
theorem exec_rsub_of_eq_zero (h : s.regL = 0) : exec (.rsub f) s = .next ((s.setPc 0).halt .rsub) :=
  if_pos (by rw [h]; rfl)

/-- RSUB with any other L jumps there (R196). -/
theorem exec_rsub_of_ne_zero (h : s.regL ≠ 0) :
    exec (.rsub f) s = .next ((s.setPc s.regL.toNat).finish { opcode := .rsub }) :=
  if_neg fun h0 => h (BitVec.eq_of_toNat_eq h0)

theorem completesJump_jsub (t : Target) (s : State) :
    completesJump (.jsub t) [.l] (trunc 24 (targetEa t s)) none s := by
  have effect : Effect s ((s.setReg .l s.pc).setPc (targetEa t s)) := .trans (.setReg .l s.pc s) (.setPc _ _)
  refine completesJump_of_finish effect rfl rfl (by simp) (fun g hg => ?_) rfl rfl
  rw [reg_setPc]
  exact reg_setReg_other (fun heq => hg (List.mem_singleton.2 heq.symm)) s.pc s

theorem completesJump_rsub (h : s.regL ≠ 0) : completesJump (.rsub f) [] s.regL none s := by
  have hL : trunc 24 (s.regL.toNat : Int) = s.regL := by simp
  exact hL ▸ completesJump_of_setPc rfl (exec_rsub_of_ne_zero f h)

end

/-- Settles O38: JSUB writes L and PC, RSUB PC alone, with the outcome Halt where L = 0. -/
theorem subroutineCallAndReturn : Obligations.SubroutineCallAndReturn := by
  unfold Obligations.SubroutineCallAndReturn
  intro t f s
  refine ⟨completesJump_jsub t s, completesJump_rsub f, fun h => ?halts⟩
  exact ⟨_, exec_rsub_of_eq_zero f h, by simp [State.halt], by simp [State.halt], fun a => by simp [State.halt],
    Leaves.finish (r := { opcode := .rsub, outcome := .halt }) (.setPc 0 s) (fun g _ => reg_setPc g 0 s) rfl rfl⟩

/-! ### Jumps through the control loop (R350) -/

theorem reg_observe (g : GReg) (s : State) : s.observe.reg g = s.reg g := by
  cases g <;> simp

/-- The address after an instruction, as the engine sees it in PC (R25, R350). -/
theorem advance_pc_toNat (len : Nat) (s : State) : (s.advance len).pc.toNat = (s.pc.toNat + len) % 2 ^ 24 := by
  rw [advance_pc, trunc, BitVec.ofInt_natCast, BitVec.toNat_ofNat]

/-- A fetched instruction that completes with a jump leaves the loop running with the PC and the registers of that
jump. -/
theorem step_of_completesJump {i : Instr} {len : Nat} {writes : List GReg} {p : Word} {cond : Option Bool} {s : State}
    (hrun : s.status = .running) (hf : fetchDecode s = .ok (i, len))
    (h : completesJump i writes p cond (s.advance len)) :
    ∃ u, step s = .next u ∧ u.status = .running ∧ u.pc = p ∧ (∀ g ∈ writes, u.reg g = (s.advance len).pc) ∧
      sameMem s u := by
  obtain ⟨t, ht, hpc, hsaved, -, hmem, hleaves⟩ := h
  obtain ⟨tr, hresult, -⟩ := hleaves.result
  have hstep : step s = .next t.observe := by rw [step_of_fetchDecode hrun hf, ht, loopOutcome]
  refine ⟨_, hstep, ?_, (observe_pc t).trans hpc, fun g hg => (reg_observe g t).trans (hsaved g hg), fun a => ?_⟩
  · rw [observe_status t _ hresult]
    exact hleaves.status.trans hrun
  · rw [observe_mem]
    exact hmem a

/-- Settles O39: the JSUB leaves the advanced PC in L, and the RSUB's jump to L leaves it in PC. -/
theorem callSavesTheReturnAddress : Obligations.CallSavesTheReturnAddress := by
  unfold Obligations.CallSavesTheReturnAddress
  intro s t len hrun hf
  obtain ⟨u, hu, hurun, hupc, hsaved, hmem⟩ := step_of_completesJump hrun hf (completesJump_jsub t _)
  have hL : u.regL.toNat = (s.pc.toNat + len) % 2 ^ 24 :=
    (congrArg BitVec.toNat (hsaved .l (by simp))).trans (advance_pc_toNat len s)
  refine ⟨u, hu, hurun, hL, hupc, hmem, fun v f len' hvrun hvL hne hvf => ?_⟩
  obtain ⟨x, hx, hxrun, hxpc, -⟩ :=
    step_of_completesJump hvrun hvf (completesJump_rsub f (s := v.advance len') hne)
  refine ⟨x, hx, hxrun, ?_⟩
  calc x.pc.toNat = v.regL.toNat := congrArg BitVec.toNat hxpc
    _ = u.regL.toNat := by rw [hvL]
    _ = (s.pc.toNat + len) % 2 ^ 24 := hL

/-! ### The normal end of a run (R196, R300, R351) -/

theorem exists_eq_rsub {i : Instr} (h : i.opcode = .rsub) : ∃ f, i = .rsub f := by
  cases i <;> cases h
  exact ⟨_, rfl⟩

/-- An execute ends with the outcome Halt exactly for RSUB with L = 0 (R196, R300). -/
theorem exec_halts_iff {i : Instr} {s t : State} (h : exec i s = .next t) :
    (∃ r, t.result = some r ∧ r.outcome = .halt) ↔ s.regL = 0 ∧ ∃ f, i = .rsub f := by
  constructor
  · rintro ⟨r, hr, hhalt⟩
    obtain ⟨s', r', -, rfl, hop, hok | ⟨-, hrsub, hL, -, -⟩⟩ := exec_next h
    · rw [finish_result] at hr
      cases hr
      exact nomatch hok.symm.trans hhalt
    · exact ⟨hL, exists_eq_rsub hrsub⟩
  · rintro ⟨hL, f, rfl⟩
    rw [exec_rsub_of_eq_zero f hL] at h
    cases h
    exact ⟨_, finish_result _ _, rfl⟩

/-- The loop halts on an execute's outcome Halt, and on no other (R350, R351). -/
theorem observe_normalEnd_iff {t : State} (hrun : t.status = .running) :
    t.observe.status.normalEnd = true ↔ ∃ r, t.result = some r ∧ r.outcome = .halt := by
  cases hr : t.result with
  | none => simp [State.observe, hr, hrun, Status.normalEnd]
  | some r =>
    rw [observe_status t r hr]
    cases ho : r.outcome <;> simp [hrun, ho, Status.normalEnd]

/-- Settles O17, by what the step did: a failed fetch and a fault are no normal end, and RSUB with L = 0 does
neither; an execute that ended halts the loop exactly if it is RSUB with L = 0. -/
theorem onlyRsubWithZeroLHalts : Obligations.OnlyRsubWithZeroLHalts := by
  unfold Obligations.OnlyRsubWithZeroLHalts
  intro s u h
  obtain ⟨hrun, ⟨st, hf, rfl⟩ | ⟨i, len, t, hf, hexec, rfl⟩ | ⟨i, len, e, hf, hexec, rfl⟩⟩ := step_cases h
  · rcases fetchDecode_eq_error hf with rfl | rfl <;> simp [hf, Status.normalEnd]
  · have htrun : t.status = .running := (exec_next hexec).status.trans hrun
    rw [observe_normalEnd_iff htrun, exec_halts_iff hexec]
    simp [hf]
  · have hnot : ¬ (s.regL = 0 ∧ ∃ f, i = .rsub f) := by
      rintro ⟨hL, f, rfl⟩
      rw [exec_rsub_of_eq_zero f (s := s.advance len) hL] at hexec
      cases hexec
    simpa [hf, Status.normalEnd] using hnot

end Sys2Proof.Machine
end

section
/-! PROOFS. 45_load_store.md: what the loads and stores move, when they fault, and what a load brings back after a
store. -/

namespace Sys2Proof.Machine

/-! ### The checked access of a load or store (R53 to R61) -/

/-- The access at an aligned address with all its words inside memory (R54, R57). -/
theorem access_of_inside {s : State} {extra w : Nat} {ea : Int} (hea : ea = 3 * (w : Int))
    (hw : w + extra < s.config.memWords) : s.access extra ea = .ok (3 * w) := by
  rw [hea]
  exact_mod_cast access_inside s extra w hw

/-- A checked access reads nothing of the state but the parameters. -/
theorem access_congr {s v : State} (hconfig : v.config = s.config) (extra : Nat) (ea : Int) :
    v.access extra ea = s.access extra ea := by
  simp only [State.access, hconfig]

section
variable {α : Type} (s : State) (extra : Nat) (ea : Int) (f : Nat → α) (k : α → Answer)

/-- An execute that begins with a checked access, a read or a write, faults where the address is misaligned, and where
it is aligned but outside memory, whatever would follow (R54, R61, R110). -/
theorem orFault_access_faults :
    (misaligned ea → orFault ((s.access extra ea).map f) k = .fault (.engine (.alignmentFault ea))) ∧
    (outside s extra ea → orFault ((s.access extra ea).map f) k = .fault (.engine (.memoryBoundsFault ea))) := by
  refine ⟨fun h => ?_, fun h => ?_⟩
  · rw [access_of_misaligned h]; rfl
  · rw [access_of_outside h]; rfl

variable {s extra ea f k}

/-- Such an execute ends with a next state only if its access succeeds. -/
theorem exists_access_of_next {u : State} (h : orFault ((s.access extra ea).map f) k = .next u) :
    ∃ a, s.access extra ea = .ok a := by
  cases ha : s.access extra ea with
  | ok a => exact ⟨a, rfl⟩
  | error e => rw [ha] at h; cases h

end

/-! ### The loads at a checked address (R210, R224, R226) -/

section
variable {s : State} {t : Target} {a : Nat}

theorem loadWord_of_access (op : Opcode) (g : GReg) (ha : s.access 0 (targetEa t s) = .ok a) :
    loadWord op g t s = .next ((s.setReg g (wordAt s a)).finish { opcode := op }) := by
  rw [loadWord, readWord_eq_ok.2 ⟨a, ha, rfl⟩, orFault_ok, wordAt_eq]

theorem execLdch_of_access (ha : s.access 0 (targetEa t s) = .ok a) :
    execLdch t s =
      .next ((s.setReg .a (loadChar s.config.ldchUpper s.regA (s.mem.read (a + s.config.chLane.val)))).finish
        { opcode := .ldch }) := by
  rw [execLdch, readByte_eq_ok.2 ⟨a, ha, rfl⟩, orFault_ok]

theorem execLdf_of_access (ha : s.access 1 (targetEa t s) = .ok a) :
    execLdf t s = .next ((s.setF (word48At s a)).finish { opcode := .ldf }) := by
  rw [execLdf, read48_eq_ok.2 ⟨a, ha, rfl⟩, orFault_ok, word48At_eq]

end

/-! ### The six word loads (R210 to R216) -/

/-- The six word loads of one operand, each with its register. -/
def wordLoads (t : Target) : List (Instr × GReg) :=
  [(.lda t, .a), (.ldb t, .b), (.ldl t, .l), (.lds t, .s), (.ldt t, .t), (.ldx t, .x)]

theorem exec_of_mem_wordLoads {t : Target} {p : Instr × GReg} (hp : p ∈ wordLoads t) (s : State) :
    fieldOperands p.1.fields = [] ∧ exec p.1 s = loadWord p.1.opcode p.2 t s := by
  revert p
  simp only [wordLoads, List.forall_mem_cons, List.not_mem_nil, false_implies, implies_true, and_true]
  exact ⟨⟨rfl, rfl⟩, ⟨rfl, rfl⟩, ⟨rfl, rfl⟩, ⟨rfl, rfl⟩, ⟨rfl, rfl⟩, ⟨rfl, rfl⟩⟩

/-- Settles O41: each of the six is a word load into its register. -/
theorem wordLoadsMoveTheWord : Obligations.WordLoadsMoveTheWord := by
  unfold Obligations.WordLoadsMoveTheWord
  intro t s p hp
  obtain ⟨hl, hexec⟩ := exec_of_mem_wordLoads (t := t) hp s
  refine ⟨fun w hea hw => completesMove_of_setReg ?_, ?_⟩
  · rw [hexec, loadWord_of_access _ _ (access_of_inside hea hw), okReport, hl]
  · rw [hexec]
    exact orFault_access_faults s 0 _ _ _

/-! ### The bytes a store leaves (R12, R52) -/

/-- The bytes of a word, the most significant first. -/
def wordBytes (v : Word) : List Byte := [v.extractLsb' 16 8, v.extractLsb' 8 8, v.extractLsb' 0 8]

/-- A bit field of a bit field is the field that many bits further up. -/
theorem extractLsb'_extractLsb'_add {w k len start width : Nat} (h : start + width ≤ len) (v : BitVec w) :
    (v.extractLsb' k len).extractLsb' start width = v.extractLsb' (k + start) width := by
  refine BitVec.eq_of_getLsbD_eq fun i hi => ?_
  simp only [BitVec.getLsbD_extractLsb', Nat.add_assoc]
  simp [show start + i < len by omega]

theorem wordBytes_append_wordBytes (v : Word48) :
    wordBytes (v.extractLsb' 24 24) ++ wordBytes (v.extractLsb' 0 24) =
      [v.extractLsb' 40 8, v.extractLsb' 32 8, v.extractLsb' 24 8, v.extractLsb' 16 8, v.extractLsb' 8 8,
       v.extractLsb' 0 8] := by
  simp [wordBytes, extractLsb'_extractLsb'_add]

theorem bytesAt_add (s : State) (a n m : Nat) : bytesAt s a (n + m) = bytesAt s a n ++ bytesAt s (a + n) m := by
  simp [bytesAt, List.range_add, Nat.add_assoc]

theorem bytesAt_congr {s u : State} {a n : Nat} (h : ∀ b, a ≤ b → b < a + n → u.mem.read b = s.mem.read b) :
    bytesAt u a n = bytesAt s a n :=
  List.map_congr_left fun k hk => h (a + k) (by omega) (by have := List.mem_range.1 hk; omega)

/-- The bytes of a stored word read back (R55). -/
theorem bytesAt_setWord {s : State} (a : Nat) (v : Word) (hwf : s.mem.wf = true) :
    bytesAt { s with mem := s.mem.setWord a v } a 3 = wordBytes v := by
  obtain ⟨h0, h1, h2⟩ := Memory.read_setWord a v hwf
  simp [bytesAt, List.range_succ, wordBytes, h0, h1, h2]

/-- The bytes of a stored 48-bit value read back, those of its high word first (R58). -/
theorem bytesAt_setWord48 {s : State} (a : Nat) (v : Word48) (hwf : s.mem.wf = true) :
    bytesAt { s with mem := s.mem.setWord48 a v } a 6 =
      wordBytes (v.extractLsb' 24 24) ++ wordBytes (v.extractLsb' 0 24) := by
  have high : bytesAt { s with mem := s.mem.setWord48 a v } a 3 = wordBytes (v.extractLsb' 24 24) :=
    (bytesAt_congr fun b _ hb => Memory.read_setWord_other _ _ (.inl hb)).trans (bytesAt_setWord a _ hwf)
  have low : bytesAt { s with mem := s.mem.setWord48 a v } (a + 3) 3 = wordBytes (v.extractLsb' 0 24) :=
    bytesAt_setWord (s := { s with mem := s.mem.setWord a (v.extractLsb' 24 24) }) (a + 3) _
      (Memory.wf_setWord _ _ hwf)
  rw [bytesAt_add _ a 3 3, high, low]

/-- An execute whose effect is a memory with the bytes `bs` from `a` on, and that reports no condition code, completes
as a store of those bytes. -/
theorem completesStore_of_setMem {i : Instr} {a : Nat} {bs : List Byte} {s : State} {m : Memory}
    (heffect : Effect s { s with mem := m })
    (hother : ∀ b, b < a ∨ a + bs.length ≤ b → m.read b = s.mem.read b)
    (hbytes : s.mem.wf = true → bytesAt { s with mem := m } a bs.length = bs)
    (h : exec i s = .next ({ s with mem := m }.finish (okReport i none none))) : completesStore i a bs s := by
  refine ⟨_, h, by simp, by simp, fun b hb => ?_, fun hwf => ?_, ?_⟩
  · rw [finish_mem]
    exact hother b hb
  · exact (bytesAt_congr fun b _ _ => by rw [finish_mem]).trans (hbytes hwf)
  · exact Leaves.finish (r := okReport i none none) heffect (fun g _ => by cases g <;> rfl) rfl rfl

/-! ### The six word stores (R217 to R223) -/

/-- The six word stores of one operand, each with its register. -/
def wordStores (t : Target) : List (Instr × GReg) :=
  [(.sta t, .a), (.stb t, .b), (.stl t, .l), (.sts t, .s), (.stt t, .t), (.stx t, .x)]

theorem exec_of_mem_wordStores {t : Target} {p : Instr × GReg} (hp : p ∈ wordStores t) (s : State) :
    fieldOperands p.1.fields = [] ∧ exec p.1 s = storeWord p.1.opcode p.2 t s := by
  revert p
  simp only [wordStores, List.forall_mem_cons, List.not_mem_nil, false_implies, implies_true, and_true]
  exact ⟨⟨rfl, rfl⟩, ⟨rfl, rfl⟩, ⟨rfl, rfl⟩, ⟨rfl, rfl⟩, ⟨rfl, rfl⟩, ⟨rfl, rfl⟩⟩

/-- Settles O42: each of the six is a word store of its register. -/
theorem wordStoresWriteTheWord : Obligations.WordStoresWriteTheWord := by
  unfold Obligations.WordStoresWriteTheWord
  intro t s p hp
  obtain ⟨hl, hexec⟩ := exec_of_mem_wordStores (t := t) hp s
  refine ⟨fun w hea hw => ?_, ?_⟩
  · have ha : s.access 0 (targetEa t s) = .ok (3 * w) := access_of_inside hea hw
    refine completesStore_of_setMem (Effect.writeWord (writeWord_eq_ok.2 ⟨_, ha, rfl⟩))
      (fun b hb => Memory.read_setWord_other _ _ hb) (bytesAt_setWord _ _) ?_
    rw [hexec, storeWord_of_access _ _ ha, okReport, hl]
  · rw [hexec]
    exact orFault_access_faults s 0 _ _ _

/-! ### LDCH and STCH (R224, R225) -/

/-- Settles O43: LDCH as a move into A under either value of `LDCH_UPPER`, STCH as a store of one byte. -/
theorem characterLoadAndStore : Obligations.CharacterLoadAndStore := by
  unfold Obligations.CharacterLoadAndStore
  intro t s
  refine ⟨fun w hea hw => ?_, ?_⟩
  · have ha : s.access 0 (targetEa t s) = .ok (3 * w) := access_of_inside hea hw
    have hload := execLdch_of_access ha
    refine ⟨fun hu => ?preserve, fun hu => ?zero, ?stch⟩
    case preserve | zero =>
      rw [hu] at hload
      exact completesMove_of_setReg hload
    case stch =>
      exact completesStore_of_setMem (Effect.writeByte (writeByte_eq_ok.2 ⟨_, ha, rfl⟩))
        (fun b hb => Memory.read_write_other _ _ (by simp only [List.length_singleton] at hb; omega))
        (fun hwf => congrArg (fun b => [b]) (Memory.read_write_same _ _ hwf)) (execStch_of_access ha)
  · simp only [List.forall_mem_cons, List.not_mem_nil, false_implies, implies_true, and_true]
    exact ⟨orFault_access_faults s 0 _ _ _, orFault_access_faults s 0 _ _ _⟩

/-! ### LDF and STF (R226, R227) -/

/-- Settles O44: LDF as a write of F, STF as a store of its two words. -/
theorem extendedLoadAndStore : Obligations.ExtendedLoadAndStore := by
  unfold Obligations.ExtendedLoadAndStore
  intro t s
  refine ⟨fun w hea hw => ?_, ?_⟩
  · have ha : s.access 1 (targetEa t s) = .ok (3 * w) := access_of_inside hea hw
    refine ⟨exists_next_of_setF (execLdf_of_access ha), ?_⟩
    exact completesStore_of_setMem (Effect.write48 (write48_eq_ok.2 ⟨_, ha, rfl⟩))
      (fun b hb => Memory.read_setWord48_other _ _ hb)
      (fun hwf => (bytesAt_setWord48 _ _ hwf).trans (wordBytes_append_wordBytes _)) (execStf_of_access ha)
  · simp only [List.forall_mem_cons, List.not_mem_nil, false_implies, implies_true, and_true]
    exact ⟨orFault_access_faults s 1 _ _ _, orFault_access_faults s 1 _ _ _⟩

/-! ### A store and then the load of the same register (R217, R225, R227) -/

section
variable {t t' : Target} {s u v : State} (hwf : s.mem.wf = true) (hmem : v.mem = u.mem) (hconfig : v.config = s.config)
  (hea : targetEa t' v = targetEa t s)

include hconfig hea in
/-- The load's access is the store's. -/
theorem access_eq_of_same_address (extra : Nat) : v.access extra (targetEa t' v) = s.access extra (targetEa t s) := by
  rw [hea, access_congr hconfig]

include hwf hmem hconfig hea

theorem loadWord_after_storeWord {op : Opcode} {g : GReg} (op' : Opcode) (h : storeWord op g t s = .next u) :
    ∃ x, loadWord op' g t' v = .next x ∧ x.reg g = s.reg g := by
  obtain ⟨a, ha⟩ := exists_access_of_next h
  rw [storeWord_of_access op g ha] at h
  cases h
  have ha' : v.access 0 (targetEa t' v) = .ok a := (access_eq_of_same_address hconfig hea 0).trans ha
  refine ⟨_, loadWord_of_access op' g ha', ?_⟩
  rw [reg_finish, reg_setReg_same, wordAt_eq, hmem, finish_mem, Memory.word_setWord _ _ hwf]

theorem execLdf_after_execStf (h : execStf t s = .next u) : ∃ x, execLdf t' v = .next x ∧ x.regF = s.regF := by
  obtain ⟨a, ha⟩ := exists_access_of_next h
  rw [execStf_of_access ha] at h
  cases h
  have ha' : v.access 1 (targetEa t' v) = .ok a := (access_eq_of_same_address hconfig hea 1).trans ha
  refine ⟨_, execLdf_of_access ha', ?_⟩
  rw [finish_regF, setF_regF, word48At_eq, hmem, finish_mem, Memory.word48_setWord48 _ _ hwf]

/-- LDCH after STCH reads the low byte that A had. -/
theorem execLdch_after_execStch (h : execStch t s = .next u) :
    ∃ x, execLdch t' v = .next x ∧ x.regA = loadChar s.config.ldchUpper v.regA (s.regA.extractLsb' 0 8) := by
  obtain ⟨a, ha⟩ := exists_access_of_next h
  rw [execStch_of_access ha] at h
  cases h
  have ha' : v.access 0 (targetEa t' v) = .ok a := (access_eq_of_same_address hconfig hea 0).trans ha
  refine ⟨_, execLdch_of_access ha', ?_⟩
  rw [finish_regA, setReg_a, hconfig, hmem, finish_mem, Memory.read_write_same _ _ hwf]

end

/-- A word's high 16 bits and its low byte put together again. -/
theorem upper_append_lowByte (w : Word) : w.extractLsb' 8 16 ++ w.extractLsb' 0 8 = w :=
  (BitVec.extractLsb'_append_extractLsb'_eq_extractLsb' rfl).trans BitVec.extractLsb'_eq_self

/-- Settles O45: the six register pairs by the one read-back of `storeWord`, F and A's low byte by their own. -/
theorem storeThenLoadRestores : Obligations.StoreThenLoadRestores := by
  unfold Obligations.StoreThenLoadRestores
  intro t t' s u v hwf hmem hconfig hea
  refine ⟨?words, execLdf_after_execStf hwf hmem hconfig hea, fun h => ?character⟩
  case words =>
    have word (op op' : Opcode) (g : GReg) (h : storeWord op g t s = .next u) :
        ∃ x, loadWord op' g t' v = .next x ∧ x.reg g = s.reg g :=
      loadWord_after_storeWord hwf hmem hconfig hea op' h
    simp only [List.forall_mem_cons, List.not_mem_nil, false_implies, implies_true, and_true]
    exact ⟨word .sta .lda .a, word .stb .ldb .b, word .stl .ldl .l, word .sts .lds .s, word .stt .ldt .t,
      word .stx .ldx .x⟩
  case character =>
    obtain ⟨x, hx, hA⟩ := execLdch_after_execStch hwf hmem hconfig hea h
    refine ⟨x, hx, fun hu => ?preserve, fun hu => ?zero⟩
    case zero => rw [hA, hu, loadChar]
    case preserve =>
      have hkept : x.regA = v.regA.extractLsb' 8 16 ++ s.regA.extractLsb' 0 8 := by rw [hA, hu, loadChar]
      exact ⟨hkept, fun hsame => by rw [hkept, hsame, upper_append_lowByte]⟩

end Sys2Proof.Machine
end

section
/-! PROOFS. 46_clear_compare.md: CLEAR, with RMO of 47_shift_move.md, the two moves between registers. -/

namespace Sys2Proof.Machine

/-! ### CLEAR and RMO (R240, R253) -/

/-- An execute that checks one register's own ordinal goes on with that register (R21, R140). -/
theorem orFault_ordinalReg_ordinal (g : GReg) (k : GReg → Answer) :
    orFault (ordinalReg g.ordinal) k = k g :=
  orFault_of_ok (ordinalReg_ordinal g) k

/-- Settles O46: CLEAR is a move of zero and RMO one of x[r1], both without a condition code; a bad ordinal faults as in
each of the ten instructions that check one (O22). -/
theorem clearAndRegisterMove : Obligations.ClearAndRegisterMove := by
  unfold Obligations.ClearAndRegisterMove
  intro s
  refine ⟨fun g => ?clear, fun g1 g2 => ?rmo, fun r1 r2 => ?badOrdinal⟩
  case clear => exact completesMove_of_setReg (orFault_ordinalReg_ordinal g _)
  case rmo => exact completesMove_of_setReg (orFault_ordinalRegs_ordinal g1 g2 _)
  case badOrdinal =>
    obtain ⟨hbad1, hbad2⟩ := badOrdinalFaults s r1 r2 0
    exact ⟨fun h1 => ⟨hbad1 h1 _ (by simp), hbad1 h1 _ (by simp)⟩, fun h1 h2 => hbad2 h1 h2 _ (by simp)⟩

end Sys2Proof.Machine
end

section
/-! PROOFS. 47_shift_move.md: the shifts. RMO is settled with CLEAR (O46). -/

namespace Sys2Proof.Machine

/-! ### SHIFTL and SHIFTR (R250 to R252) -/

/-- The left shift in the words of R251. -/
theorem shiftLeftW_eq_trunc {w : Nat} (a : BitVec w) (n : Nat) :
    shiftLeftW a n = trunc w ((a.toNat : Int) * 2 ^ n) := by
  rw [shiftLeftW]
  push_cast
  rfl

/-- The right shift in the words of R252. -/
theorem shiftRightW_eq_trunc {w : Nat} (a : BitVec w) (n : Nat) :
    shiftRightW a n = trunc w ((a.toNat : Int) / 2 ^ n) := by
  rw [shiftRightW]
  push_cast
  rfl

/-- Settles O47: each shift puts its ALU law's result into x[r1]; a bad ordinal faults as in each of the ten
instructions that check one (O22). -/
theorem shiftsByAnyCount : Obligations.ShiftsByAnyCount := by
  unfold Obligations.ShiftsByAnyCount
  intro s n
  refine ⟨fun g => ?_, fun r1 h1 => ?badOrdinal⟩
  · rw [← shiftLeftW_eq_trunc, ← shiftRightW_eq_trunc]
    refine ⟨?shiftl, ?shiftr, fun hn => ⟨shiftLeftW_eq_zero hn, shiftRightW_eq_zero hn⟩⟩
    case shiftl | shiftr => exact completesInto_of_setReg (orFault_ordinalReg_ordinal g _)
  case badOrdinal =>
    obtain ⟨hbad, -⟩ := badOrdinalFaults s r1 0 n
    exact ⟨hbad h1 _ (by simp), hbad h1 _ (by simp)⟩

end Sys2Proof.Machine
end

section
/-! PROOFS. 48_index_test.md: TIX and TIXR, once and n times in a row. -/

namespace Sys2Proof.Machine

/-! ### TIX and TIXR (R260, R261) -/

/-- An execute that writes `v` to register `g` and ends Ok leaves `v` in `g` and nothing else changed but CC, if it
reports one. -/
theorem exists_next_of_setReg {i : Instr} {g : GReg} {v : Word} {cc : Option CC} {s : State}
    (h : exec i s = .next ((s.setReg g v).finish (okReport i cc none))) :
    ∃ u, exec i s = .next u ∧ u.reg g = v ∧ u.pc = s.pc ∧ u.regF = s.regF ∧ sameMem s u ∧
      Leaves [g] i .ok cc none none s u := by
  have others (g' : GReg) (hg' : g' ∉ [g]) : (s.setReg g v).reg g' = s.reg g' :=
    reg_setReg_other (fun heq => hg' (List.mem_singleton.2 heq.symm)) v s
  exact ⟨_, h, by simp, by simp, by simp, fun a => by simp,
    Leaves.finish (r := okReport i cc none) (.setReg g v s) others rfl rfl⟩

/-- A value compares equal with itself in either mode (R31). -/
theorem compareCC_self {w : Nat} (mode : CmpMode) (a : BitVec w) : compareCC mode a a = .eq := by
  cases mode <;> simp [compareCC, signCC, trunc]

/-- TIX at an aligned address inside memory (R260). -/
theorem exec_tix_inside {t : Target} {s : State} {w : Nat} (hea : targetEa t s = 3 * (w : Int))
    (hw : w < s.config.memWords) :
    exec (.tix t) s = .next ((s.setReg .x (nextX s)).finish
      (okReport (.tix t) (some (compareCC s.config.cmpMode (nextX s) (wordAt s (3 * w)))) none)) := by
  rw [← ccCmp_eq_compareCC]
  exact orFault_of_ok (readWord_inside hea hw) _

/-- TIXR compares the new X with a register as it is after the increment (R261). -/
theorem exec_tixr_ordinal (g : GReg) (s : State) :
    exec (.tixr g.ordinal) s = .next ((s.setReg .x (nextX s)).finish
      (okReport (.tixr g.ordinal)
        (some (compareCC s.config.cmpMode (nextX s) ((s.setReg .x (nextX s)).reg g))) none)) := by
  rw [← ccCmp_eq_compareCC]
  exact orFault_ordinalReg_ordinal g _

/-- Settles O48: where the operand is read each increments X and reports the comparison; X itself is compared with its
new value; TIX faults as every instruction that reads a word, TIXR as each of the ten that check an ordinal (O22). -/
theorem indexTestsCountAndCompare : Obligations.IndexTestsCountAndCompare := by
  unfold Obligations.IndexTestsCountAndCompare
  intro t s x' counts
  have faults (k : Word → Answer) := orFault_readWord_faults s (targetEa t s) k
  refine ⟨fun w hea hw => ?tix, fun g hg => ?tixr, ?tixrX, (faults _).1, (faults _).2, fun r1 h1 => ?badOrdinal⟩
  case tix => exact exists_next_of_setReg (exec_tix_inside hea hw)
  case tixr =>
    have h := exec_tixr_ordinal g s
    rw [reg_setReg_other hg.symm] at h
    exact exists_next_of_setReg h
  case tixrX =>
    have h := exec_tixr_ordinal .x s
    rw [reg_setReg_same, compareCC_self] at h
    exact exists_next_of_setReg h
  case badOrdinal => exact (badOrdinalFaults s r1 0 0).1 h1 _ (by simp)

/-! ### n TIX in a row (R260) -/

/-- An address that X is not added to depends on PC and B alone (R92, R93). -/
theorem targetEa_congr {t : Target} {s u : State} (ht : targetIndexed t = false) (hpc : u.pc = s.pc)
    (hB : u.regB = s.regB) : targetEa t u = targetEa t s := by
  cases t <;> cases ht <;> simp [targetEa, indexOf, hpc, hB]

/-- The condition code written last is the one that stays (R28). -/
theorem swWithCC_swWithCC (sw : Word) (c d : CC) :
    swWithCC (swWithCC sw (some c)) (some d) = swWithCC sw (some d) := by
  have reserved (e : BitVec 2) : (sw.extractLsb' 2 22 ++ e).extractLsb' 2 22 = sw.extractLsb' 2 22 :=
    BitVec.extractLsb'_append_eq_left
  cases c <;> cases d <;> simp only [swWithCC, reserved]

/-- A word counts up by 1 below the largest signed word (R9, R260). -/
theorem toInt_add_one {x : Word} (h : x.toInt + 1 < 2 ^ 23) : (x + 1).toInt = x.toInt + 1 := by
  have hlo : -2 ^ 23 ≤ x.toInt := BitVec.le_toInt x
  rw [← addW_eq_add]
  exact toInt_trunc_of_abs_lt (abs_lt.2 ⟨Int.lt_add_one_of_le hlo, h⟩)

/-- What `n` TIX against the word `m` leave, as R260 counts them. -/
structure Counted (m : Word) (n : Nat) (s u : State) : Prop where
  regX : u.regX = s.regX + BitVec.ofNat 24 n
  mem : u.mem = s.mem
  config : u.config = s.config
  pc : u.pc = s.pc
  regB : u.regB = s.regB
  sw : s.config.cmpMode = .exact → s.regX.toInt + n < 2 ^ 23 →
    u.sw = swWithCC s.sw (some (signCC (s.regX.toInt + n - m.toInt)))

theorem Counted.one {i : Instr} {m : Word} {s : State} : Counted m 1 s ((s.setReg .x (nextX s)).finish
    (okReport i (some (compareCC s.config.cmpMode (nextX s) m)) none)) where
  regX := by rw [finish_regX, setReg_x, nextX, addW_eq_add]; rfl
  mem := by simp
  config := by simp
  pc := by simp
  regB := by simp
  sw hmode hX := by
    rw [finish_sw_eq_swWithCC, setReg_sw, okReport, hmode, compareCC, nextX, addW_eq_add, toInt_add_one hX]
    rfl

/-- After one more TIX the bounds of the count are those of the whole, and the condition code is the last one. -/
theorem Counted.succ {m : Word} {n : Nat} {s t u : State} (h : Counted m 1 s t) (h' : Counted m n t u) :
    Counted m (n + 1) s u where
  regX := by rw [h'.regX, h.regX, add_assoc, ← BitVec.ofNat_add, add_comm 1 n]
  mem := h'.mem.trans h.mem
  config := h'.config.trans h.config
  pc := h'.pc.trans h.pc
  regB := h'.regB.trans h.regB
  sw hmode hX := by
    push_cast at hX
    have hX1 : s.regX.toInt + (1 : Nat) < 2 ^ 23 := by push_cast; omega
    have hcount : t.regX.toInt + n = s.regX.toInt + (n + 1 : Nat) := by
      have hone : t.regX.toInt = s.regX.toInt + 1 := by rw [h.regX]; exact toInt_add_one hX1
      push_cast
      omega
    have hlast := h'.sw (h.config ▸ hmode) (by rw [hcount]; exact_mod_cast hX)
    rw [hlast, h.sw hmode hX1, swWithCC_swWithCC, hcount]

/-- One TIX at an aligned address inside memory. -/
theorem exec_tix_counted {t : Target} {s : State} {w : Nat} (hea : targetEa t s = 3 * (w : Int))
    (hw : w < s.config.memWords) : ∃ v, exec (.tix t) s = .next v ∧ Counted (wordAt s (3 * w)) 1 s v :=
  ⟨_, exec_tix_inside hea hw, .one⟩

theorem execTimes_succ_of_next {i : Instr} {s v : State} (h : exec i s = .next v) (n : Nat) :
    execTimes i (n + 1) s = execTimes i n v := by
  simp only [execTimes, h]

/-- One or more TIX in a row, by induction on how many follow the first: none of them moves the address. -/
theorem execTimes_tix_counted {t : Target} {w : Nat} (ht : targetIndexed t = false) :
    ∀ (n : Nat) {s : State}, targetEa t s = 3 * (w : Int) → w < s.config.memWords →
      ∃ u, execTimes (.tix t) (n + 1) s = .next u ∧ Counted (wordAt s (3 * w)) (n + 1) s u
  | 0, s, hea, hw => by
    obtain ⟨v, hv, hone⟩ := exec_tix_counted hea hw
    exact ⟨v, execTimes_succ_of_next hv 0, hone⟩
  | n + 1, s, hea, hw => by
    obtain ⟨v, hv, hone⟩ := exec_tix_counted hea hw
    have hea' : targetEa t v = 3 * (w : Int) := (targetEa_congr ht hone.pc hone.regB).trans hea
    obtain ⟨u, hu, hrest⟩ := execTimes_tix_counted ht n hea' (hone.config ▸ hw)
    rw [wordAt_eq, hone.mem, ← wordAt_eq] at hrest
    exact ⟨u, (execTimes_succ_of_next hv _).trans hu, hone.succ hrest⟩

/-- Settles O49: none changes nothing, and one or more count up. -/
theorem repeatedTixCounts : Obligations.RepeatedTixCounts := by
  unfold Obligations.RepeatedTixCounts
  intro t s w n ht hea hw
  cases n with
  | zero => exact ⟨s, rfl, by simp, rfl, rfl, rfl, fun _ h => absurd h (by decide)⟩
  | succ n =>
    obtain ⟨u, hu, hcounted⟩ := execTimes_tix_counted ht n hea hw
    exact ⟨u, hu, hcounted.regX, hcounted.mem, hcounted.config, hcounted.pc, fun hmode _ => hcounted.sw hmode⟩

end Sys2Proof.Machine
end

section
/-! PROOFS. 60_exceptions.md: how an execute ends, why it faults, the result record it returns, and the text of a
trace. -/

namespace Sys2Proof.Machine

/-! ### The outcome of an execute (R300) -/

/-- Settles O16, from the two ends of an execute and what the result record of a next state repeats. -/
theorem execEndsWithOneOutcome : Obligations.ExecEndsWithOneOutcome := by
  unfold Obligations.ExecEndsWithOneOutcome
  intro i s
  rcases exec_ends i s with ⟨u, hu, hdone⟩ | hfault
  · obtain ⟨r, hr, hop, hout⟩ := hdone.result
    obtain ⟨r', hr', hl⟩ := exec_operands i s u hu
    obtain rfl : r = r' := Option.some.inj (hr.symm.trans hr')
    exact .inl ⟨u, r, hu, hr, hop, hl, hout.imp_right And.left⟩
  · exact .inr hfault

/-! ### Faulting steps (R306, R308, R350) -/

theorem readNamed_surfaceFault (op : Opcode) (l : List Int) (f : EngineFault) (s : State) (name : RegName) :
    (s.surfaceFault op l f).readNamed name = s.readNamed name := by
  cases name <;> rfl

/-- A fetched instruction that faults is surfaced on the state before the step (R350). -/
theorem step_of_fault {s : State} {i : Instr} {len : Nat} {f : EngineFault} (hrun : s.status = .running)
    (hf : fetchDecode s = .ok (i, len)) (h : exec i (s.advance len) = .fault (.engine f)) :
    step s = .next (s.surfaceFault i.opcode (fieldOperands i.fields) f) := by
  rw [step_of_fetchDecode hrun hf, h, loopOutcome]

/-- Settles O15: the state surfaced is the one before the step but for status and result record. -/
theorem faultLeavesEveryRegisterAndByte : Obligations.FaultLeavesEveryRegisterAndByte := by
  unfold Obligations.FaultLeavesEveryRegisterAndByte
  intro s i len f hrun hf h
  exact ⟨_, step_of_fault hrun hf h, surfaceFault_status _ _ _ _, readNamed_surfaceFault _ _ _ _, fun _ => rfl, rfl,
    _, surfaceFault_result _ _ _ _, rfl, rfl, rfl, rfl⟩

/-! ### The access of a memory opcode (R301, R305) -/

/-- Each of the 29 memory opcodes begins with one checked access, of its words at its effective address (R53 to R62,
R110). -/
theorem exec_begins_with_access {i : Instr} (h : i.opcode ∈ memoryOpcodes) (s : State) :
    ∃ k : Nat → Answer, exec i s = orFault (s.access (extraWords i.opcode) (fieldEa i.fields s)) k := by
  cases i with
  | add t | sub t | mul t | div t | and t | or t | comp t | tix t => exact ⟨_, orFault_map _ _ _⟩
  | addf t | subf t | mulf t | divf t | compf t => exact ⟨_, orFault_map _ _ _⟩
  | lda t | ldb t | ldl t | lds t | ldt t | ldx t | ldch t | ldf t => exact ⟨_, orFault_map _ _ _⟩
  | sta t | stb t | stl t | sts t | stt t | stx t | stch t | stf t => exact ⟨_, orFault_map _ _ _⟩
  | _ => exact absurd h (of_decide_eq_false rfl)

/-- Settles O20: the access a memory opcode begins with fails on a misaligned address. -/
theorem misalignedAccessFaults : Obligations.MisalignedAccessFaults := by
  unfold Obligations.MisalignedAccessFaults
  intro i s hop hea
  obtain ⟨k, hk⟩ := exec_begins_with_access hop s
  rw [hk, access_of_misaligned hea, orFault_error]

/-- Settles O21: the access a memory opcode begins with fails outside memory. -/
theorem accessOutsideMemoryFaults : Obligations.AccessOutsideMemoryFaults := by
  unfold Obligations.AccessOutsideMemoryFaults
  intro i s hop hea
  obtain ⟨k, hk⟩ := exec_begins_with_access hop s
  rw [hk, access_of_outside hea, orFault_error]

/-! ### Zero divisors (R304) -/

/-- Settles O23, from what the three do with a zero divisor (O30, O31, O32). -/
theorem zeroDivisorFaults : Obligations.ZeroDivisorFaults := by
  unfold Obligations.ZeroDivisorFaults
  intro s t w g1 g2
  refine ⟨fun hea hw hm => ?div, fun hd => ?divr, fun hea hw hm => ?divf⟩
  case div =>
    obtain ⟨-, -, -, -, hzero, -⟩ := (wordArithmeticIntoA t s).1 w hea hw
    exact hzero (by rw [hm]; rfl)
  case divr =>
    obtain ⟨-, -, -, -, hzero⟩ := (registerArithmeticIntoR2 s).1 g1 g2
    exact hzero (by rw [hd]; rfl)
  case divf =>
    obtain ⟨-, -, -, -, hzero⟩ := (extendedArithmeticIntoF t s).1 w hea hw
    exact hzero (by rw [hm]; rfl)


/-! ### The cause of a fault (R301 to R305, R309) -/

/-- If the answer is an engine fault, `P` holds of it. -/
def FaultsWith (P : EngineFault → Prop) (a : Answer) : Prop := ∀ f, a = .fault (.engine f) → P f

theorem FaultsWith.next {P : EngineFault → Prop} {u : State} : FaultsWith P (.next u) := nofun

theorem FaultsWith.orFault {α : Type} {P : EngineFault → Prop} {r : Except EngineFault α} {k : α → Answer}
    (herror : ∀ f, r = .error f → P f) (hok : ∀ v, r = .ok v → FaultsWith P (k v)) : FaultsWith P (orFault r k) := by
  intro f hf
  rcases orFault_eq_fault.1 hf with ⟨f', hr, heq⟩ | ⟨v, hr, hk⟩
  · cases heq
    exact herror f hr
  · exact hok v hr f hk

/-- The ordinal an instruction may record: r1, or r2 if r1 is good, where it checks a pair; r1 where it checks one; none
where it checks none, and never a shift count (R140, R250, R302, R307). -/
def RecordsOrdinal (o : Int) : Instr → Prop
  | .addr r1 r2 | .subr r1 r2 | .mulr r1 r2 | .divr r1 r2 | .compr r1 r2 | .rmo r1 r2 =>
    o = r1 ∨ (¬ badOrdinal r1 ∧ o = r2)
  | .clear r1 | .tixr r1 | .shiftl r1 _ | .shiftr r1 _ => o = r1
  | _ => False

/-- The divisor an instruction finds to be 0 (R304). -/
def ZeroDivisor (s : State) : Instr → Prop
  | .div t => s.readWord (targetEa t s) = .ok 0
  | .divr r1 r2 => ∃ g1 g2 : GReg, r1 = g1.ordinal ∧ r2 = g2.ordinal ∧ s.reg g1 = 0
  | .divf t => s.read48 (targetEa t s) = .ok 0
  | _ => False

/-- Why an execute faults: its access fails, an ordinal is bad, or its divisor is 0. -/
inductive FaultCause (i : Instr) (s : State) : EngineFault → Prop where
  | access {f : EngineFault} (hop : i.opcode ∈ memoryOpcodes)
      (h : s.access (extraWords i.opcode) (fieldEa i.fields s) = .error f) : FaultCause i s f
  | ordinal {o : Int} (hbad : badOrdinal o) (h : RecordsOrdinal o i) : FaultCause i s (.invalidRegisterOrdinalFault o)
  | divisor (h : ZeroDivisor s i) : FaultCause i s (.divideByZeroFault i.opcode)

/-- A failed pair of ordinals records the first bad one (R140, R307). -/
theorem ordinalRegs_eq_error_first {r1 r2 : Int} {f : EngineFault} (h : ordinalRegs r1 r2 = .error f) :
    ∃ o, f = .invalidRegisterOrdinalFault o ∧ badOrdinal o ∧ (o = r1 ∨ (¬ badOrdinal r1 ∧ o = r2)) := by
  by_cases h1 : badOrdinal r1
  · rw [ordinalRegs_bad_r1 r2 h1] at h
    cases h
    exact ⟨r1, rfl, h1, .inl rfl⟩
  · obtain ⟨rfl, hbad⟩ | ⟨rfl, hbad⟩ := ordinalRegs_eq_error h
    · exact absurd hbad h1
    · exact ⟨r2, rfl, hbad, .inr ⟨h1, rfl⟩⟩

section
variable {α : Type} {i : Instr} {s : State}

/-- An execute that begins with its access. -/
theorem faultsWith_access {f : Nat → α} {k : α → Answer} (hop : decide (i.opcode ∈ memoryOpcodes) = true)
    (hok : ∀ v, (s.access (extraWords i.opcode) (fieldEa i.fields s)).map f = .ok v →
      FaultsWith (FaultCause i s) (k v)) :
    FaultsWith (FaultCause i s) (orFault ((s.access (extraWords i.opcode) (fieldEa i.fields s)).map f) k) := by
  refine .orFault (fun e he => .access (of_decide_eq_true hop) ?_) hok
  cases ha : s.access (extraWords i.opcode) (fieldEa i.fields s) <;> rw [ha] at he <;> cases he
  rfl

/-- An execute that begins with the check of one ordinal. -/
theorem faultsWith_ordinalReg {r1 : Int} {k : GReg → Answer} (hi : RecordsOrdinal r1 i)
    (hok : ∀ g, FaultsWith (FaultCause i s) (k g)) : FaultsWith (FaultCause i s) (orFault (ordinalReg r1) k) := by
  refine .orFault (fun e he => ?_) fun g _ => hok g
  obtain ⟨rfl, hbad⟩ := ordinalReg_eq_error he
  exact .ordinal hbad hi

/-- An execute that begins with the check of a pair of ordinals. -/
theorem faultsWith_ordinalRegs {r1 r2 : Int} {k : GReg × GReg → Answer}
    (hi : ∀ o, o = r1 ∨ (¬ badOrdinal r1 ∧ o = r2) → RecordsOrdinal o i)
    (hok : ∀ g, ordinalRegs r1 r2 = .ok g → FaultsWith (FaultCause i s) (k g)) :
    FaultsWith (FaultCause i s) (orFault (ordinalRegs r1 r2) k) := by
  refine .orFault (fun e he => ?_) hok
  obtain ⟨o, rfl, hbad, ho⟩ := ordinalRegs_eq_error_first he
  exact .ordinal hbad (hi o ho)

/-- An execute that divides. -/
theorem faultsWith_divide {w : Nat} {a b : BitVec w} {k : BitVec w → Answer} (hzero : b = 0 → ZeroDivisor s i)
    (hok : ∀ r, FaultsWith (FaultCause i s) (k r)) :
    FaultsWith (FaultCause i s) (orFault (divide i.opcode a b) k) := by
  refine .orFault (fun e he => ?_) fun r _ => hok r
  obtain ⟨hb, rfl⟩ := divide_eq_error.1 he
  exact .divisor (hzero (BitVec.eq_of_toInt_eq (hb.trans BitVec.toInt_zero.symm)))

theorem jumpIf_faultsWith (P : EngineFault → Prop) (op : Opcode) (c : CC) (t : Target) (s : State) :
    FaultsWith P (jumpIf op c t s) := by
  unfold jumpIf
  split_ifs <;> exact .next

theorem execRsub_faultsWith (P : EngineFault → Prop) (f : Form) (s : State) : FaultsWith P (execRsub f s) := by
  unfold execRsub
  split_ifs <;> exact .next

end

/-- Every execute that faults has a cause of its instruction. -/
theorem exec_faultCause (i : Instr) (s : State) : FaultsWith (FaultCause i s) (exec i s) := by
  cases i with
  | add t | sub t | mul t | and t | or t | comp t | tix t => exact faultsWith_access rfl fun _ _ => .next
  | addf t | subf t | mulf t | compf t => exact faultsWith_access rfl fun _ _ => .next
  | lda t | ldb t | ldl t | lds t | ldt t | ldx t | ldch t | ldf t => exact faultsWith_access rfl fun _ _ => .next
  | sta t | stb t | stl t | sts t | stt t | stx t | stch t | stf t => exact faultsWith_access rfl fun _ _ => .next
  | div t | divf t =>
    refine faultsWith_access rfl fun _ hm => faultsWith_divide (fun hzero => ?_) fun _ => .next
    exact hm.trans (congrArg Except.ok hzero)
  | addr r1 r2 | subr r1 r2 | mulr r1 r2 | compr r1 r2 | rmo r1 r2 =>
    exact faultsWith_ordinalRegs (fun _ => id) fun _ _ => .next
  | divr r1 r2 =>
    refine faultsWith_ordinalRegs (fun _ => id) fun g hg => faultsWith_divide (fun hzero => ?_) fun _ => .next
    obtain ⟨h1, h2⟩ := ordinalRegs_eq_ok.1 hg
    exact ⟨g.1, g.2, h1, h2, hzero⟩
  | clear r1 | tixr r1 => exact faultsWith_ordinalReg rfl fun _ => .next
  | shiftl r1 n | shiftr r1 n => exact faultsWith_ordinalReg rfl fun _ => .next
  | jeq t | jlt t | jgt t => exact jumpIf_faultsWith _ _ _ t s
  | rsub f => exact execRsub_faultsWith _ f s
  | fix | float | norm | sio | tio => exact .next
  | ssk f | rd f | td f | wd f | lps f | sti f => exact .next
  | svc n => exact .next
  | j t | jsub t => exact .next

/-- A word operand that was read lies at an aligned address inside memory (R54). -/
theorem readWord_ok_inside {s : State} {ea : Int} {m : Word} (h : s.readWord ea = .ok m) :
    ∃ w : Nat, ea = 3 * (w : Int) ∧ w < s.config.memWords ∧ wordAt s (3 * w) = m := by
  obtain ⟨a, ha, rfl⟩ := readWord_eq_ok.1 h
  obtain ⟨hea, h3, hin⟩ := access_eq_ok.1 ha
  obtain ⟨w, rfl⟩ : ∃ w, a = 3 * w := ⟨a / 3, by omega⟩
  exact ⟨w, by omega, by omega, rfl⟩

/-- A 48-bit operand that was read lies at an aligned address, both words inside memory (R57). -/
theorem read48_ok_inside {s : State} {ea : Int} {m : Word48} (h : s.read48 ea = .ok m) :
    ∃ w : Nat, ea = 3 * (w : Int) ∧ w + 1 < s.config.memWords ∧ word48At s (3 * w) = m := by
  obtain ⟨a, ha, rfl⟩ := read48_eq_ok.1 h
  obtain ⟨hea, h3, hin⟩ := access_eq_ok.1 ha
  obtain ⟨w, rfl⟩ : ∃ w, a = 3 * w := ⟨a / 3, by omega⟩
  exact ⟨w, by omega, by omega, word48At_eq s (3 * w)⟩

/-- Settles O19, by the cause of the fault. -/
theorem faultsHaveTheirCause : Obligations.FaultsHaveTheirCause := by
  unfold Obligations.FaultsHaveTheirCause
  intro i s f h
  cases exec_faultCause i s f h with
  | access hop ha =>
    rcases access_eq_error ha with ⟨rfl, hmis⟩ | ⟨rfl, haligned, hout⟩
    · exact ⟨hop, rfl, hmis⟩
    · exact ⟨hop, rfl, haligned, by simpa [State.memSize] using hout⟩
  | ordinal hbad ho => cases i <;> exact ⟨hbad, ho⟩
  | divisor hzero =>
    refine ⟨rfl, ?_⟩
    cases i with
    | div t => exact readWord_ok_inside hzero
    | divr r1 r2 => exact hzero
    | divf t => exact read48_ok_inside hzero
    | _ => exact hzero

/-! ### The result record of an execute (R320) -/

/-- The condition code a conditional jump tests (R192 to R194). -/
def testedCC : Opcode → Option CC
  | .jeq => some .eq
  | .jlt => some .lt
  | .jgt => some .gt
  | _ => none

/-- Whether a conditional jump is taken in `s`; none for every other opcode (R320). -/
def jumpCondition (op : Opcode) (s : State) : Option Bool := (testedCC op).map fun c => decide (s.ccBits = c.code)

/-- The result record says that the jump condition is `cond`. -/
def HasCondMet (cond : Option Bool) (u : State) : Prop := ∃ r, u.result = some r ∧ r.condMet = cond

theorem endsIn_finish_condMet {r : Report} {s : State} : EndsIn (HasCondMet r.condMet) (.next (s.finish r)) :=
  .next ⟨_, finish_result r s, rfl⟩

theorem jumpIf_condMet (op : Opcode) (c : CC) (t : Target) (s : State) :
    EndsIn (HasCondMet (some (decide (s.ccBits = c.code)))) (jumpIf op c t s) := by
  unfold jumpIf
  split_ifs with hcc
  · rw [decide_eq_true hcc]
    exact endsIn_finish_condMet
  · rw [decide_eq_false hcc]
    exact endsIn_finish_condMet

theorem execRsub_condMet (f : Form) (s : State) : EndsIn (HasCondMet none) (execRsub f s) := by
  unfold execRsub
  split_ifs <;> exact endsIn_finish_condMet

/-- Every execute that ends says whether its conditional jump is taken, if it is one (R320). -/
theorem exec_condMet (i : Instr) (s : State) : EndsIn (HasCondMet (jumpCondition i.opcode s)) (exec i s) := by
  cases i with
  | jeq t | jlt t | jgt t => exact jumpIf_condMet _ _ t s
  | rsub f => exact execRsub_condMet f s
  | fix | float | norm | sio | tio => exact endsIn_finish_condMet
  | ssk f | rd f | td f | wd f | lps f | sti f => exact endsIn_finish_condMet
  | svc n => exact endsIn_finish_condMet
  | j t | jsub t => exact endsIn_finish_condMet
  | div t | divf t => exact .orFault fun _ _ => .orFault fun _ _ => endsIn_finish_condMet
  | divr r1 r2 => exact .orFault fun _ _ => .orFault fun _ _ => endsIn_finish_condMet
  | add t | sub t | mul t | and t | or t | comp t | tix t => exact .orFault fun _ _ => endsIn_finish_condMet
  | addf t | subf t | mulf t | compf t | ldf t | stf t => exact .orFault fun _ _ => endsIn_finish_condMet
  | lda t | ldb t | ldl t | lds t | ldt t | ldx t | ldch t => exact .orFault fun _ _ => endsIn_finish_condMet
  | sta t | stb t | stl t | sts t | stt t | stx t | stch t => exact .orFault fun _ _ => endsIn_finish_condMet
  | addr r1 r2 | subr r1 r2 | mulr r1 r2 | compr r1 r2 | rmo r1 r2 =>
    exact .orFault fun _ _ => endsIn_finish_condMet
  | clear r1 | tixr r1 => exact .orFault fun _ _ => endsIn_finish_condMet
  | shiftl r1 n | shiftr r1 n => exact .orFault fun _ _ => endsIn_finish_condMet

/-- In the words of R192 to R194: SW[1:0] is 0 for JEQ, 1 for JLT, 2 for JGT. -/
theorem jumpCondition_eq (op : Opcode) (s : State) : jumpCondition op s =
    if op = .jeq then some (decide (s.sw.extractLsb' 0 2 = 0))
    else if op = .jlt then some (decide (s.sw.extractLsb' 0 2 = 1))
    else if op = .jgt then some (decide (s.sw.extractLsb' 0 2 = 2))
    else none := by
  cases op <;> rfl

/-- What the result record of an execute that ends says, but for its operands and trace. -/
structure Reports (op : Opcode) (s t : State) (x : Result) : Prop where
  opcode : x.opcode = op
  unimpl : x.unimpl = isPlaceholder op
  sw : t.sw = swWithCC s.sw x.newCC
  condMet : x.condMet = jumpCondition op s
  outcome : x.outcome = .ok ∧ ¬ (op = .rsub ∧ s.regL = 0) ∨ x.outcome = .halt ∧ op = .rsub ∧ s.regL = 0 ∧ t.pc = 0

/-- Every execute that ends returns such a record (R300, R320). -/
theorem exec_reports {i : Instr} {s t : State} (h : exec i s = .next t) :
    ∃ x, t.result = some x ∧ Reports i.opcode s t x := by
  have hhalts := exec_halts_iff h
  obtain ⟨x, hx, hcond⟩ := exec_condMet i s t h
  obtain ⟨s', r, he, rfl, hop, hout⟩ := exec_next h
  obtain rfl : r.result s'.freeTraces = x := Option.some.inj ((finish_result r s').symm.trans hx)
  refine ⟨_, hx, hop, congrArg isPlaceholder hop, ?sw, hcond, ?outcome⟩
  case sw => rw [finish_sw_eq_swWithCC, he.sw]; rfl
  case outcome =>
    refine hout.imp (fun hok => ⟨hok, fun ⟨hrsub, hL⟩ => ?_⟩) fun ⟨hhalt, hrsub, hL, hpc, _⟩ => ⟨hhalt, hrsub, hL, hpc⟩
    obtain ⟨x', hx', hhalt⟩ := hhalts.2 ⟨hL, exists_eq_rsub hrsub⟩
    obtain rfl : r.result s'.freeTraces = x' := Option.some.inj (hx.symm.trans hx')
    exact nomatch hok.symm.trans hhalt

theorem readNamed_recordFault (op : Opcode) (l : List Int) (f : EngineFault) (s : State) (name : RegName) :
    (s.recordFault op l f).readNamed name = s.readNamed name := by
  cases name <;> rfl

theorem isPlaceholder_iff (op : Opcode) :
    isPlaceholder op = true ↔ op ∈ [Opcode.norm, .sio, .ssk, .rd, .tio, .td, .svc, .wd, .lps, .sti] := by
  rw [← isPlaceholder_eq, decide_eq_true_iff]

/-- A jump checks nothing, so an execute that faults is of no conditional jump (R190). -/
theorem testedCC_of_fault {i : Instr} {s : State} {f : EngineFault} (h : exec i s = .fault (.engine f)) :
    testedCC i.opcode = none := by
  cases i with
  | jeq t | jlt t | jgt t => exact absurd h (jumpIf_faultsWith (fun _ => False) _ _ t s f)
  | _ => rfl

/-- Settles O55, by the three ends of an execute of a record: refused, ended, or faulted. -/
theorem everyExecuteReturnsItsRecord : Obligations.EveryExecuteReturnsItsRecord := by
  unfold Obligations.EveryExecuteReturnsItsRecord
  intro r s
  rw [← isPlaceholder_iff, ← jumpCondition_eq]
  rcases execute_cases r s with ⟨e, -, h⟩ | ⟨i, t, hi, hexec, h⟩ | ⟨i, f, hi, hexec, h⟩
  · exact .inl ⟨e, h⟩
  · obtain ⟨x, hx, hrep⟩ := exec_reports hexec
    rw [Record.toInstr_opcode hi] at hrep
    refine .inr ⟨_, { x with operands := r.operands }, h, by rw [withOperands_result, hx]; rfl, hrep.opcode, rfl,
      by rw [hrep.unimpl], hrep.condMet, hrep.sw, ?_⟩
    rcases hrep.outcome with ⟨hok, hnot⟩ | ⟨hhalt, hrsub⟩
    · simpa only [hok] using hnot
    · simpa only [hhalt, withOperands_pc] using hrsub
  · have hcond := testedCC_of_fault hexec
    rw [Record.toInstr_opcode hi] at hcond
    refine .inr ⟨_, _, h, recordFault_result _ _ _ _, rfl, rfl, Iff.rfl, ?_, rfl, rfl, readNamed_recordFault _ _ _ _,
      rfl, rfl, rfl⟩
    rw [jumpCondition, hcond]
    rfl

/-! ### The text of a trace (R321) -/

/-- A digit is one of the sixteen, and stands at its value (R321). -/
theorem hexDigit_spec : ∀ d < 16,
    hexDigit d ∈ "0123456789ABCDEF".toList ∧ "0123456789ABCDEF".toList.idxOf (hexDigit d) = d := by
  decide

theorem hexDigits_length : ∀ k v : Nat, (hexDigits k v).length = k
  | 0, _ => rfl
  | k + 1, v => by rw [hexDigits, List.length_append, hexDigits_length k, List.length_singleton]

theorem mem_hexDigits : ∀ (k v : Nat), ∀ c ∈ hexDigits k v, c ∈ "0123456789ABCDEF".toList
  | 0, _, _, hc => nomatch hc
  | k + 1, v, c, hc => by
    rcases List.mem_append.1 hc with hc | hc
    · exact mem_hexDigits k (v / 16) c hc
    · rw [List.mem_singleton.1 hc]
      exact (hexDigit_spec _ (Nat.mod_lt v (by decide))).1

/-- The value a list of digits spells, the first one most significant (R321). -/
def hexValue (l : List Char) : Nat := l.foldl (fun n c => 16 * n + "0123456789ABCDEF".toList.idxOf c) 0

theorem hexValue_append_digit (l : List Char) {d : Nat} (hd : d < 16) :
    hexValue (l ++ [hexDigit d]) = 16 * hexValue l + d := by
  rw [hexValue, List.foldl_append, List.foldl_cons, List.foldl_nil, (hexDigit_spec d hd).2, hexValue]

/-- The digits spell the value modulo their number's power of 16, by induction on that number. -/
theorem hexValue_hexDigits : ∀ k v : Nat, hexValue (hexDigits k v) = v % 16 ^ k
  | 0, v => by rw [pow_zero, Nat.mod_one]; rfl
  | k + 1, v => by
    calc hexValue (hexDigits (k + 1) v)
        = 16 * hexValue (hexDigits k (v / 16)) + v % 16 := hexValue_append_digit _ (Nat.mod_lt v (by decide))
      _ = v % 16 + 16 * (v / 16 % 16 ^ k) := by rw [hexValue_hexDigits k, add_comm]
      _ = v % 16 ^ (k + 1) := by rw [pow_succ', Nat.mod_mul]

/-- Settles O59, from the number, the alphabet and the value of the digits. -/
theorem traceTextIsFixedWidthHex : Obligations.TraceTextIsFixedWidthHex := by
  unfold Obligations.TraceTextIsFixedWidthHex
  exact ⟨fun k v => ⟨hexDigits_length k v, mem_hexDigits k v, hexValue_hexDigits k v⟩, fun _ _ => rfl, fun _ _ => rfl⟩

end Sys2Proof.Machine
end

section
/-! PROOFS. 70_reset_and_hazards.md: the standard launch state, and a step of the control loop. -/

namespace Sys2Proof.Machine

/-! ### The standard launch state (R341, R342) -/

/-- The loader keeps memory in canonical form and inside its capacity (R35). -/
theorem loadByte_memOk {s : State} (h : s.memOk = true) (e : Host.Cell) : (loadByte s e).memOk = true := by
  obtain ⟨hwf, hbelow⟩ := Bool.and_eq_true_iff.1 h
  refine Bool.and_eq_true_iff.2 ⟨?_, ?_⟩ <;> rw [loadByte_mem] <;> split_ifs with he
  · exact Memory.wf_write _ _ hwf
  · exact hwf
  · exact Memory.below_write _ he hbelow
  · exact hbelow

/-- A loaded byte reads back if its address lies inside memory; every other byte reads as before (R342 step 2). -/
theorem read_loadByte {s : State} (h : s.memOk = true) (e : Host.Cell) (a : Nat) :
    (loadByte s e).mem.read a = if a < s.memSize ∧ e.1 = a then e.2 else s.mem.read a := by
  obtain ⟨hwf, -⟩ := Bool.and_eq_true_iff.1 h
  rw [loadByte_mem]
  by_cases ha : e.1 = a
  · subst ha
    by_cases hin : e.1 < s.memSize <;> simp [hin, Memory.read_write_same _ _ hwf]
  · by_cases hin : e.1 < s.memSize <;> simp [hin, ha, Memory.read_write_other _ _ (Ne.symm ha)]

/-- What loading an image leaves of the machine: memory alone is new, and it keeps its form (R342). -/
structure LoadedFrom (s u : State) : Prop where
  frame : u = { s with mem := u.mem }
  memOk : s.memOk = true → u.memOk = true

theorem foldl_loadByte_loadedFrom (image : List Host.Cell) (s : State) : LoadedFrom s (image.foldl loadByte s) := by
  induction image generalizing s with
  | nil => exact ⟨rfl, id⟩
  | cons e image ih =>
    obtain ⟨hframe, hmem⟩ := ih (loadByte s e)
    exact ⟨hframe, fun h => hmem (loadByte_memOk h e)⟩

theorem LoadedFrom.memSize {s u : State} (h : LoadedFrom s u) : u.memSize = s.memSize := by
  rw [h.frame]; rfl

/-- A loaded image reads as its last entry for an address inside memory, and as memory did before it elsewhere (R342
step 2). The induction takes the last entry off the image, which is the first one that the search meets. -/
theorem read_foldl_loadByte {s : State} (hs : s.memOk = true) (image : List Host.Cell) (a : Nat) :
    (image.foldl loadByte s).mem.read a =
      if a < s.memSize then ((image.reverse.find? fun e => e.1 == a).map Prod.snd).getD (s.mem.read a)
      else s.mem.read a := by
  induction image using List.reverseRecOn with
  | nil => simp
  | append_singleton image e ih =>
    have hloaded := foldl_loadByte_loadedFrom image s
    rw [List.foldl_append, List.foldl_cons, List.foldl_nil, read_loadByte (hloaded.memOk hs), hloaded.memSize, ih,
      List.reverse_append, List.reverse_singleton, List.singleton_append]
    by_cases ha : e.1 = a
    · by_cases hin : a < s.memSize <;> simp [ha, hin]
    · simp [ha]

/-- The launch state is the reset state but for memory and PC (R342). -/
theorem launch_eq (c : Config) (image : List Host.Cell) (start : Int) :
    launch c image start =
      { State.resetWith c with mem := (image.foldl loadByte (State.resetWith c)).mem, pc := trunc 24 start } := by
  rw [launch, State.setPc, (foldl_loadByte_loadedFrom image (State.resetWith c)).frame]

theorem launch_memOk (c : Config) (image : List Host.Cell) (start : Int) : (launch c image start).memOk = true :=
  (foldl_loadByte_loadedFrom image (State.resetWith c)).memOk (resetWith_memOk c)

/-- Settles O10: the registers are those of reset (O7) but for PC, memory holds the image, and the invariant's parts are
those of reset and of the loader. -/
theorem standardLaunchState : Obligations.StandardLaunchState := by
  unfold Obligations.StandardLaunchState
  intro c image start
  have heq := launch_eq c image start
  refine ⟨fun a => ?mem, by rw [heq], fun r hr => ?regs, by rw [heq]; rfl, by rw [heq]; rfl, fun hc => ?inv⟩
  case mem =>
    rw [heq, read_foldl_loadByte (resetWith_memOk c)]
    cases image.reverse.find? fun e => e.1 == a <;> rfl
  case regs =>
    rw [heq]
    cases r with
    | pc => exact absurd rfl hr
    | _ => rfl
  case inv =>
    have hmem := launch_memOk c image start
    rw [heq] at hmem ⊢
    exact ⟨hc, hmem, rfl, rfl⟩

/-! ### The loop around an execute (R350 to R353) -/

/-- Settles O14, status by status. -/
theorem stoppedMachineTakesNoStep : Obligations.StoppedMachineTakesNoStep := by
  unfold Obligations.StoppedMachineTakesNoStep
  intro s hs
  cases hst : s.status with
  | running => exact absurd hst hs
  | halted | faulted f | fetchFault pc | decodeFault pc => simp only [step, hst]

/-- After the outcome Ok the loop keeps the state (R350). -/
theorem observe_of_ok {u : State} {r : Result} (hr : u.result = some r) (ho : r.outcome = .ok) : u.observe = u := by
  simp only [State.observe, hr, ho]

/-- After the outcome Halt the loop is Halted (R350, R351). -/
theorem observe_of_halt {u : State} {r : Result} (hr : u.result = some r) (ho : r.outcome = .halt) :
    u.observe = { u with status := .halted } := by
  simp only [State.observe, hr, ho]

/-- Settles O13, outcome by outcome. -/
theorem loopActsOnTheOutcome : Obligations.LoopActsOnTheOutcome := by
  unfold Obligations.LoopActsOnTheOutcome
  intro i s u r f hr
  refine ⟨fun ho => ?_, fun ho => ?_, .free s.freeTraces, s.freeTraces + 1, rfl⟩
  · rw [loopOutcome, observe_of_ok hr ho]
  · rw [loopOutcome, observe_of_halt hr ho]

/-- A fetched instruction that ends is kept, with the status its outcome gives (R350). -/
theorem step_of_next {s u : State} {i : Instr} {len : Nat} (hrun : s.status = .running)
    (hf : fetchDecode s = .ok (i, len)) (h : exec i (s.advance len) = .next u) : step s = .next u.observe := by
  rw [step_of_fetchDecode hrun hf, h, loopOutcome]

/-- Settles O11: the state the instruction executes in is the one with PC advanced. -/
theorem stepExecutesTheDecodedInstruction : Obligations.StepExecutesTheDecodedInstruction := by
  unfold Obligations.StepExecutesTheDecodedInstruction
  intro s i len hrun hf
  exact ⟨fun u hu => step_of_next hrun hf hu, fun f hexec => step_of_fault hrun hf hexec⟩

/-- The record of an instruction that faults returns the fault with the instruction's own opcode and operands (R309,
R320). -/
theorem execute_record_of_fault {i : Instr} {s : State} {f : EngineFault} (h : exec i s = .fault (.engine f)) :
    execute (record i s) s = .next (s.recordFault i.opcode (fieldOperands i.fields) f) := by
  obtain ⟨i', hi', hexec⟩ := exec_record i s
  exact execute_of_fault hi' (hexec.trans h)

/-- Settles O56: the record executes as the instruction does (O54), and the loop acts on what it returns. -/
theorem stepExecutesTheDecodedRecord : Obligations.StepExecutesTheDecodedRecord := by
  unfold Obligations.StepExecutesTheDecodedRecord
  intro s i len hrun hf
  rcases exec_ends i (s.advance len) with ⟨u, hu, -⟩ | ⟨f, hexec⟩
  · have hstep := step_of_next hrun hf hu
    obtain ⟨x, hx, hrep⟩ := exec_reports hu
    refine ⟨u, x, (executeOfTheRecordIsExec i (s.advance len)).1 u hu, hx, ?_⟩
    rcases hrep.outcome with ⟨hok, -⟩ | ⟨hhalt, -⟩
    · simpa only [hok, observe_of_ok hx hok] using hstep
    · simpa only [hhalt, observe_of_halt hx hhalt] using hstep
  · exact ⟨_, _, execute_record_of_fault hexec, recordFault_result _ _ _ _, step_of_fault hrun hf hexec⟩

/-! ### The bytes an instruction needs (R88, R90) -/

/-- The length of a format-3/4 instruction: 4 bytes where the bit e makes it format 4, unless n = i = 0 (R90). -/
def formLength (b0 b1 : Byte) : Nat := if b0 &&& 3 ≠ 0 ∧ b1 &&& 0x10 ≠ 0 then 4 else 3

section
variable {b0 b1 : Byte}

theorem formLength_eq_four (hni : b0 &&& 3 ≠ 0) (he : b1.getLsbD 4 = true) : formLength b0 b1 = 4 :=
  if_pos ⟨hni, fun h => by rw [and_e_eq_zero.1 h] at he; cases he⟩

theorem formLength_of_sic (hsic : b0 &&& 3 = 0) : formLength b0 b1 = 3 :=
  if_neg fun h => h.1 hsic

theorem formLength_of_format3 (he : b1.getLsbD 4 = false) : formLength b0 b1 = 3 :=
  if_neg fun h => h.2 (and_e_eq_zero.2 he)

variable (b0 b1)

theorem formLength_ge_three : 3 ≤ formLength b0 b1 := by
  unfold formLength
  split_ifs <;> omega

theorem formLength_le_four : formLength b0 b1 ≤ 4 := by
  unfold formLength
  split_ifs <;> omega

variable (b2 b3 : Byte)

/-- Two bytes after the first are enough for a form of three bytes, and too few for one of four. -/
theorem decodeForm_two_after : decodeForm b0 [b1, b2] =
    if 3 < formLength b0 b1 then .error .truncated else decodeForm b0 [b1, b2, b3] := by
  by_cases hsic : b0 &&& 3 = 0
  · rw [formLength_of_sic hsic, if_neg (by decide), decodeForm_sic hsic, decodeForm_sic hsic]
  cases he : b1.getLsbD 4 with
  | false => rw [formLength_of_format3 he, if_neg (by decide), decodeForm_format3 hsic he, decodeForm_format3 hsic he]
  | true => rw [formLength_eq_four hsic he, if_pos (by decide), decodeForm_two_bytes hsic he]

/-- A form decodes from the bytes of its length as from more, and not from fewer (R90). -/
theorem decodeForm_take (k : Nat) : decodeForm b0 ([b1, b2, b3].take k) =
    if k + 1 < formLength b0 b1 then .error .truncated else decodeForm b0 [b1, b2, b3] := by
  have hge := formLength_ge_three b0 b1
  have hle := formLength_le_four b0 b1
  rcases k with _ | _ | _ | k
  · rw [if_pos (by omega)]; rfl
  · rw [if_pos (by omega)]; exact decodeForm_one_byte
  · exact decodeForm_two_after b0 b1 b2 b3
  · rw [if_neg (by omega)]; rfl

/-- A selected opcode's operands decode from the bytes of its length as from more, and not from fewer (R90). -/
theorem decodeOperands_take (sh : Builder) (k : Nat) : decodeOperands b0 ([b1, b2, b3].take k) sh =
    if k + 1 < sh.length b0 b1 then .error .truncated else decodeOperands b0 [b1, b2, b3] sh := by
  cases sh with
  | none i => rfl
  | mem mk | loose mk =>
    have hlen : ∀ sh : Builder, sh.format = 3 → sh.length b0 b1 = formLength b0 b1 := fun sh h => by
      simp only [Builder.length, formLength, h, true_and]
    rw [hlen _ rfl, decodeOperands, decodeForm_take, decodeOperands]
    split_ifs <;> rfl
  | regReg mk | reg mk | regCount mk | number mk =>
    cases k with
    | zero => rfl
    | succ k => rfl

end

theorem Builder.length_bounds (b0 b1 : Byte) (sh : Builder) : 1 ≤ sh.length b0 b1 ∧ sh.length b0 b1 ≤ 4 := by
  unfold Builder.length
  split_ifs
  · decide
  · cases sh <;> simp [Builder.format]

/-- R90 gives lengths of one to four bytes. -/
theorem lengthR90_bounds {b0 b1 : Byte} {n : Nat} (hn : lengthR90 b0 b1 = some n) : 1 ≤ n ∧ n ≤ 4 := by
  rw [lengthR90_eq, Option.map_eq_some_iff] at hn
  obtain ⟨op, -, rfl⟩ := hn
  exact Builder.length_bounds b0 b1 (builder op)

/-- The first `k` bytes of an instruction of `n` bytes: fewer than `n` are too few, and `n` or more decode as four do
(R90). -/
theorem decode_take {b0 b1 b2 b3 : Byte} {n k : Nat} (hn : lengthR90 b0 b1 = some n) (hk : 1 ≤ k) :
    decode ([b0, b1, b2, b3].take k) =
      if k < n then .error .truncated else decode [b0, b1, b2, b3] := by
  rw [lengthR90_eq, Option.map_eq_some_iff] at hn
  obtain ⟨op, hsel, rfl⟩ := hn
  obtain ⟨k, rfl⟩ := Nat.exists_eq_add_of_le' hk
  rw [List.take_succ_cons, decode_cons hsel, decode_cons hsel, decodeOperands_take]

/-! ### Fetching and decoding (R70, R73, R350) -/

theorem bytesAt_four (s : State) (a : Nat) :
    bytesAt s a 4 = [s.mem.read a, s.mem.read (a + 1), s.mem.read (a + 2), s.mem.read (a + 3)] := rfl

theorem bytesAt_take (s : State) (a k n : Nat) : (bytesAt s a n).take k = bytesAt s a (min k n) := by
  rw [bytesAt, ← List.map_take, List.take_range, bytesAt]

/-- The loop reads the bytes from PC on, at most four and none past the end of memory (R73, R350). -/
theorem fetchBytes_eq_bytesAt (s : State) :
    fetchBytes s = bytesAt s s.pc.toNat (min 4 (s.memSize - s.pc.toNat)) := by
  have hin : (fun a => decide (a < s.memSize)) ∘ (fun k => s.pc.toNat + k) =
      fun k => decide (k < s.memSize - s.pc.toNat) := by
    funext k
    exact decide_eq_decide.2 Nat.lt_sub_iff_add_lt'.symm
  have hrange : ([0, 1, 2, 3].filter fun k => decide (k < s.memSize - s.pc.toNat)) =
      List.range (min 4 (s.memSize - s.pc.toNat)) := by
    rw [← List.Ico.zero_bot, ← List.Ico.filter_lt]
    rfl
  rw [fetchBytes, List.filter_map, hin, hrange, List.map_map]
  rfl

/-- The bytes of the length R90 gives, or more, decode as four do; fewer are too few. -/
theorem decode_bytesAt {s : State} {a n k : Nat} (hn : lengthR90 (s.mem.read a) (s.mem.read (a + 1)) = some n)
    (hk : 1 ≤ k) (hk4 : k ≤ 4) :
    decode (bytesAt s a k) = if k < n then .error .truncated else decode (bytesAt s a 4) := by
  rw [← min_eq_left hk4, ← bytesAt_take, bytesAt_four, decode_take hn hk, min_eq_left hk4]

section
variable {s : State}

/-- Where the fetched bytes do not decode the loop stops, and nothing but its status changes (R350). -/
theorem step_of_decode_error (hrun : s.status = .running) {e : DecodeError} (h : decode (fetchBytes s) = .error e) :
    step s = .next { s with status := stopStatus s.pc.toNat e } := by
  simp only [step, hrun, loopStep, fetchDecode, h]

/-- Where the fetched bytes decode the loop advances PC and executes (R350). -/
theorem step_of_decode_ok (hrun : s.status = .running) {i : Instr} {len : Nat}
    (h : decode (fetchBytes s) = .ok (i, len)) : step s = loopOutcome i s (exec i (s.advance len)) :=
  step_of_fetchDecode hrun (by rw [fetchDecode, h])

/-- The first byte in memory selects no opcode: the bytes fetched fail so (R87, R350). -/
theorem decode_fetchBytes_noOpcode (hin : s.pc.toNat < s.memSize)
    (hn : lengthR90 (s.mem.read s.pc.toNat) (s.mem.read (s.pc.toNat + 1)) = none) :
    decode (fetchBytes s) = .error .noOpcode := by
  rw [lengthR90_eq, Option.map_eq_none_iff] at hn
  obtain ⟨m, hm⟩ : ∃ m, min 4 (s.memSize - s.pc.toNat) = m + 1 := Nat.exists_eq_add_of_le' (by omega)
  rw [fetchBytes_eq_bytesAt, hm, bytesAt, List.range_succ_eq_map, List.map_cons, decode, Nat.add_zero, hn]

/-- With four bytes at hand, what decodes has the length of R90, and what fails does not for want of bytes or of an
opcode (O4). -/
theorem decode_bytesAt_four {a n : Nat} (hn : lengthR90 (s.mem.read a) (s.mem.read (a + 1)) = some n) :
    (∀ e, decode (bytesAt s a 4) = .error e → ∀ pc, stopStatus pc e = .decodeFault pc) ∧
    ∀ i len, decode (bytesAt s a 4) = .ok (i, len) → len = n := by
  rw [bytesAt_four]
  obtain ⟨-, hlength⟩ := instructionLengthRule (s.mem.read a) (s.mem.read (a + 1)) (s.mem.read (a + 2))
    (s.mem.read (a + 3)) []
  obtain ⟨-, hbytes, hlen⟩ := hlength n hn
  refine ⟨fun e he pc => ?_, hlen⟩
  cases e with
  | truncated => exact absurd he hbytes
  | noOpcode | formNotAdmitted | addressingUndefined => rfl

end

/-- Settles O12, check by check: the loop reads the first bytes of the four at PC, and those decode as R90 says (O4). -/
theorem stepFollowsTheControlLoop : Obligations.StepFollowsTheControlLoop := by
  unfold Obligations.StepFollowsTheControlLoop
  intro s hrun pc0 b0 b1
  refine ⟨fun hout => ?outside, fun hin hn => ?noOpcode, fun n hin hn hend => ?truncated, fun n hn hend => ?decodes⟩
  case outside =>
    refine step_of_decode_error hrun (e := .truncated) ?_
    rw [fetchBytes_eq_bytesAt, Nat.sub_eq_zero_of_le hout]
    rfl
  case noOpcode => exact step_of_decode_error hrun (decode_fetchBytes_noOpcode hin hn)
  case truncated =>
    refine step_of_decode_error hrun (e := .truncated) ?_
    obtain ⟨-, hn4⟩ := lengthR90_bounds hn
    rw [fetchBytes_eq_bytesAt, decode_bytesAt hn (by omega) (by omega), if_pos (by omega)]
  case decodes =>
    obtain ⟨hn1, hn4⟩ := lengthR90_bounds hn
    obtain ⟨herror, hlen⟩ := decode_bytesAt_four hn
    have hfetch : decode (fetchBytes s) = decode (bytesAt s pc0 4) := by
      rw [fetchBytes_eq_bytesAt, decode_bytesAt hn (by omega) (by omega), if_neg (by omega)]
    rw [decode_bytesAt hn hn1 hn4, if_neg (lt_irrefl n), ← hfetch]
    refine ⟨fun e he => ?_, fun i len hi => ?_⟩
    · rw [step_of_decode_error hrun he, herror e (hfetch ▸ he)]
    · obtain rfl := hlen i len (hfetch ▸ hi)
      exact ⟨rfl, step_of_decode_ok hrun hi⟩

end Sys2Proof.Machine
end
